-- ==== Sys2Proof/Word.lean ====
section
/-!
DEFINITION. The word of the command interface and of both storage arrays, and the packet it travels in.
Rules: `00_scope.md` R7 (W = 32, signed, two's complement), `30_encoding.md` R61 (a packet is a finite sequence of
32-bit words, delivered whole), `20_memory.md` R40 (the addressable unit is one 32-bit element).
-/

namespace Sys2Proof

/-- One 32-bit element or packet word (R7, R61). Samples, coefficients and outputs are read as signed integers through
`Sys2Proof.Machine.sext32` (R64). -/
abbrev Word := BitVec 32

/-- A command or response packet: its words in order, `P[0]` first; its length is the word count the transport tells
the decoder (R61). -/
abbrev Packet := List Word

end Sys2Proof
end

