-- ==== Sys2Proof/Config.lean ====
section
/-!
DEFINITION. The constants an implementation fixes. The engine's only implementation parameters are `N` and the
unobservable `ACC_W` (`00_scope.md` R6, R8, R9). No value is left free: the spec gives every operation its result.
-/

namespace Sys2Proof

/-- `N` of the reference design: "value 99 in the reference design" (R6). -/
def Config.referenceTaps : Nat := 99

/-- The smallest number of taps, "any N ≥ 1" (R6). -/
def Config.minTaps : Nat := 1

/-- The largest number of taps the encoding admits (R66). -/
def Config.maxTaps : Nat := 4294967295

/-- `W`, the width in bits of a sample, a coefficient and an output (R7). -/
def Config.sampleWidth : Nat := 32

/-- `bitlen(n) = floor(log2(n)) + 1` (R8). -/
def Config.bitlen (n : Nat) : Nat := Nat.log2 n + 1

/-- `ACC_W_EXACT = 2*W - 1 + bitlen(N)`: the least accumulator width that never wraps (R8, R103). -/
def Config.accWidthExact (n : Nat) : Nat := 2 * Config.sampleWidth - 1 + Config.bitlen n

end Sys2Proof
end

