-- ==== Sys2Proof/Syntax.lean ====
section
/-!
DEFINITION. The abstract command set of `30_encoding.md` R60: the five rows of `spec/opcode_table.json`.
-/

namespace Sys2Proof

/-- The five commands (R60, R63). Pseudo-commands and micro-operations are no commands (R72, R73). -/
inductive Instr where
  /-- `RESET`, opcode 0x01: clears the sample history (R122). -/
  | reset
  /-- `LOAD c0, ..., c(m-1)`, opcode 0x02: a coefficient vector of any length `m >= 0`, index order (R121). -/
  | load (coefficients : List Word)
  /-- `PROCESS x`, opcode 0x03: one signed sample (R123). -/
  | process (sample : Word)
  /-- `TAP i`, opcode 0x04: an unsigned coefficient index (R81). -/
  | tap (index : Nat)
  /-- `WINDOW`, opcode 0x05: reads the whole sample window (R92). -/
  | window
  deriving DecidableEq, Repr

end Sys2Proof
end

