-- ==== Sys2Proof/WellFormed.lean ====
section
/-!
DEFINITION. Which commands the encoding can carry (`30_encoding.md` R64, R66, R69 "operands in range"): a coefficient and
a sample are 32-bit words by their type, a `LOAD` has any length, and the index of `TAP` must fit one unsigned word.
-/

namespace Sys2Proof

/-- The check (R64: the index is in `0 .. 4294967295`). -/
def Instr.wellFormed : Instr → Bool
  | .reset => true
  | .load _ => true
  | .process _ => true
  | .tap index => decide (index < 4294967296)
  | .window => true

/-- The operands are in the range the encoding carries. -/
abbrev WellFormed (i : Instr) : Prop := i.wellFormed = true

end Sys2Proof
end

