-- ==== Sys2Proof/Decode.lean ====
section
/-!
DEFINITION. The decoder of command packets, total on every packet (`30_encoding.md` R62 to R69), and after it the
encoder (R63, R64). A packet that is none of the five commands is rejected under the case of R68 that it meets.
The unit is the 32-bit word; the engine has no byte order (`20_memory.md` R42, assumption 6).
-/

namespace Sys2Proof

/-! ## Fields of the header word (R62) -/

/-- `OP = P[0][31:24]` (R62). -/
def headerOp (h : Word) : BitVec 8 := h.extractLsb' 24 8

/-- `RSV = P[0][23:0]`, which must be zero (R62). -/
def headerRsv (h : Word) : BitVec 24 := h.extractLsb' 0 24

/-- `zext_32(u) = u`: the unsigned reading of a word (R14, R64). -/
def zext32 (w : Word) : Nat := w.toNat

/-! ## Opcodes and formats (R63) -/

/-- The assigned opcodes (R63). -/
inductive Opcode where
  | reset
  | load
  | process
  | tap
  | window
  deriving DecidableEq, Repr

/-- The three packet formats (R63). -/
inductive Format where
  /-- header only -/
  | cmd0
  /-- header and one payload word -/
  | cmd1
  /-- header and any number of payload words -/
  | cmdv
  deriving DecidableEq, Repr

/-- The opcode byte of each command (R63). -/
def Opcode.byte : Opcode → BitVec 8
  | .reset => 0x01#8
  | .load => 0x02#8
  | .process => 0x03#8
  | .tap => 0x04#8
  | .window => 0x05#8

/-- The format of each command (R63). -/
def Opcode.format : Opcode → Format
  | .reset => .cmd0
  | .load => .cmdv
  | .process => .cmd1
  | .tap => .cmd1
  | .window => .cmd0

/-- The opcode a byte stands for; `0x00` and `0x06 .. 0xFF` are not assigned (R63, R68). -/
def opcodeOfByte (b : BitVec 8) : Option Opcode :=
  if b = 0x01#8 then some .reset
  else if b = 0x02#8 then some .load
  else if b = 0x03#8 then some .process
  else if b = 0x04#8 then some .tap
  else if b = 0x05#8 then some .window
  else none

/-- How many packet words the format needs at least (R63); for `cmdv` this is the header alone. -/
def Format.leastWords : Format → Nat
  | .cmd0 => 1
  | .cmd1 => 2
  | .cmdv => 1

/-! ## The decoder (R69) -/

/-- Why a packet is no command: the cases (a) to (d) of R68. -/
inductive Illegal where
  /-- case (a): the packet has no word -/
  | emptyPacket
  /-- case (b): `OP` is `0x00` or in `0x06 .. 0xFF` -/
  | unassignedOpcode
  /-- case (c): `RSV` is not zero -/
  | reservedNonzero
  /-- case (d): the word count does not fit the opcode's format -/
  | wrongWordCount
  deriving DecidableEq, Repr

/-- The payload words after a legal header, by opcode (R64, R69). -/
def decodePayload : Opcode → List Word → Except Illegal Instr
  | .reset, [] => .ok .reset
  | .reset, _ :: _ => .error .wrongWordCount
  | .load, payload => .ok (.load payload)
  | .process, [x] => .ok (.process x)
  | .process, [] => .error .wrongWordCount
  | .process, _ :: _ :: _ => .error .wrongWordCount
  | .tap, [i] => .ok (.tap (zext32 i))
  | .tap, [] => .error .wrongWordCount
  | .tap, _ :: _ :: _ => .error .wrongWordCount
  | .window, [] => .ok .window
  | .window, _ :: _ => .error .wrongWordCount

/-- The decoder, in the order of R69: empty, reserved field, opcode, word count. -/
def decode : Packet → Except Illegal Instr
  | [] => .error .emptyPacket
  | h :: payload =>
    if headerRsv h ≠ 0 then .error .reservedNonzero
    else
      match opcodeOfByte (headerOp h) with
      | none => .error .unassignedOpcode
      | some op => decodePayload op payload

/-! ## The encoder (R63, R64) -/

/-- The header word of an opcode: `OP ++ RSV` with `RSV = 0` (R62). -/
def headerWord (op : Opcode) : Word := op.byte ++ 0#24

/-- The opcode of a command. -/
def Instr.opcode : Instr → Opcode
  | .reset => .reset
  | .load _ => .load
  | .process _ => .process
  | .tap _ => .tap
  | .window => .window

/-- The payload words of a command: coefficients in index order, the sample, or the index (R63, R64). DESIGN CHOICE, safe: for an
index of `2^32` or more, which no packet can name (R66) and for which R69 defines no encoding, the payload word is the index
modulo `2^32`, so the packet is that of another index; such a `TAP` is not `WellFormed` (assumption 25). -/
def Instr.payload : Instr → List Word
  | .reset => []
  | .load coefficients => coefficients
  | .process sample => [sample]
  | .tap index => [BitVec.ofNat 32 index]
  | .window => []

/-- The command packet of a command (R63); of a `TAP` that is not `WellFormed`, see `Instr.payload` (assumption 25). -/
def encode (i : Instr) : Packet := headerWord i.opcode :: i.payload

/-! ## Words numbered as `spec/opcode_table.json` numbers them -/

/-- The `⌈nbits/32⌉` packet words of a number whose bit 0 is the least significant bit of the first word. -/
def tableWords (nbits w : Nat) : Packet :=
  (List.range ((nbits + 31) / 32)).map fun k => BitVec.ofNat 32 ((w % 2 ^ nbits) >>> (32 * k))

/-- The packet word count the opcode of a first word asks for at least; 1 where it is no opcode. -/
def leastWordsOf : Packet → Nat
  | [] => 0
  | h :: _ =>
    match opcodeOfByte (headerOp h) with
    | none => 1
    | some op => op.format.leastWords

/-- The packet the transport delivers for a table word: its words, and zero payload words up to what the opcode's
format needs (assumption 7). A `LOAD` has no illegal word count (R68), so it gets none added. -/
def tablePacket (nbits w : Nat) : Packet :=
  tableWords nbits w ++
    List.replicate (leastWordsOf (tableWords nbits w) - (tableWords nbits w).length) 0#32

/-- The command the decoder reads from a table word. -/
def decodeTableWord (nbits w : Nat) : Option Instr :=
  match decode (tablePacket nbits w) with
  | .ok i => some i
  | .error _ => none

end Sys2Proof
end

