-- ==== Sys2Proof/Machine/State.lean ====
section
/-!
DEFINITION. The state of one engine instance (`10_state.md` R20 to R32), the responses it gives (`30_encoding.md` R60, R67)
and the reasons a step can stop. The spec's state is the triple `(COEF, SR, ctrl)`; beside it stand the instance's
constant `N` and the two sides of the command interface (assumptions 1, 3 and 4).
-/

namespace Sys2Proof.Machine

/-- The control label (R25). -/
inductive Ctrl where
  /-- no `LOAD` has succeeded since the start of the session -/
  | uninitialized
  /-- a `LOAD` has succeeded and no `PROCESS` since -/
  | coefficientsLoaded
  /-- a `PROCESS` has succeeded since the last successful `LOAD` -/
  | streaming
  deriving DecidableEq, Repr

/-- The four error kinds of the engine (R140). -/
inductive ErrorKind where
  /-- `LOAD` with `len(c) != N` (R142) -/
  | coefficientLengthMismatch
  /-- `PROCESS` or `TAP` before any successful `LOAD` (R143) -/
  | notConfigured
  /-- `TAP i` with `i >= N` (R149) -/
  | indexOutOfRange
  /-- a packet that is none of the five commands (R149) -/
  | illegalCommand
  deriving DecidableEq, Repr

/-- The status of a response (R67). -/
inductive Status where
  | ok
  | error (kind : ErrorKind)
  deriving DecidableEq, Repr

/-- A response: a status and a finite sequence of data words (R60). -/
structure Response where
  status : Status
  data   : List Word
  deriving DecidableEq, Repr

/-- The two storage index spaces (R40). -/
inductive Space where
  | coef
  | sr
  deriving DecidableEq, Repr

/-- Why the machine stops. The engine has no stuck behaviour (R70); this one is met only in states no run reaches. -/
inductive Fault where
  /-- Raised by `PROCESS` and `TAP` when `ctrl` is not `Uninitialized` and `COEF` holds no value at an element they read
  (excluded by R26 and R32). The store is not read as zeros (R23). Safe: the model stops. -/
  | coefficientAbsent
  deriving DecidableEq, Repr

/-- Why the model gives an instruction no meaning. -/
inductive Refusal where
  /-- Raised by `exec` alone, for a command that has no meaning yet: none is left. Safe. -/
  | notModelled (mnemonic : String)
  deriving DecidableEq, Repr

/-- One engine instance and its command interface. -/
structure State where
  /-- `N`, the construction-time constant of the instance (R6); no step writes it. -/
  taps      : Nat
  /-- `COEF`: no value until the first successful `LOAD` (R22, R23). -/
  coef      : Option (List Word)
  /-- `SR`: the window, newest sample at position 0 (R21). -/
  sr        : List Word
  /-- `ctrl`: the control label (R25). -/
  ctrl      : Ctrl
  /-- The command packets the host will still issue, the next one first (R61, R165). -/
  commands  : List Packet
  /-- The response packets delivered so far, oldest first (R65, R165). -/
  responses : List Packet
  deriving DecidableEq, Repr

/-- The state at the start of a session of an engine with `n` taps (R31, R160). -/
def State.resetWith (n : Nat) : State where
  taps := n
  coef := none
  sr := List.replicate n 0#32
  ctrl := .uninitialized
  commands := []
  responses := []

/-- The reference design right after the reset event (R6, R31). -/
def State.reset : State := State.resetWith Config.referenceTaps

end Sys2Proof.Machine
end

