-- ==== Sys2Proof/Machine/Operands.lean ====
section
/-!
DEFINITION. The conversions between words and integers of `00_scope.md` R14, through which every operand is read
(`30_encoding.md` R64) and every result narrowed (`42_filter_core.md` R104), and the bit pattern of the label (R25).
-/

namespace Sys2Proof.Machine

/-- `sext_32(u)`: a word read as a signed integer, `u` below `2^31` and `u - 2^32` from there on (R14, R64). -/
def sext32 (w : Word) : Int :=
  if w.toNat < 2147483648 then (w.toNat : Int) else (w.toNat : Int) - 4294967296

/-- `word_32(v) = v mod 2^32`: the word that carries an integer (R14). -/
def word32 (v : Int) : Word := BitVec.ofInt 32 v

/-- `narrow_32(a) = sext_32(a mod 2^32)` (R14, R104). -/
def narrow32 (a : Int) : Int := sext32 (word32 a)

/-- The two-bit pattern of the label; `3` never occurs (R25). -/
def Ctrl.bits : Ctrl → BitVec 2
  | .uninitialized => 0#2
  | .coefficientsLoaded => 1#2
  | .streaming => 2#2

end Sys2Proof.Machine
end

