-- ==== Sys2Proof/Machine/Flags.lean ====
section
/-!
DEFINITION. The engine has no flags, condition codes or predicates (`10_state.md` R27); what stands in their place is the
status of the response, "returned once and not stored". Here are the status numbers (`30_encoding.md` R67) and the
response packet, written and read back (R65).
-/

namespace Sys2Proof.Machine

/-- The number of an error status (R67). -/
def ErrorKind.code : ErrorKind → BitVec 8
  | .coefficientLengthMismatch => 0x01#8
  | .notConfigured => 0x02#8
  | .indexOutOfRange => 0x03#8
  | .illegalCommand => 0x04#8

/-- `STATUS` (R67). -/
def Status.code : Status → BitVec 8
  | .ok => 0x00#8
  | .error kind => kind.code

/-- The response packet: `Q[0] = STATUS ++ 0`, then the data words (R65). -/
def encodeResponse (r : Response) : Packet := (r.status.code ++ 0#24) :: r.data

/-- The status a number stands for; `0x05 .. 0xFF` are never produced (R67). -/
def statusOfCode (b : BitVec 8) : Option Status :=
  if b = 0x00#8 then some .ok
  else if b = 0x01#8 then some (.error .coefficientLengthMismatch)
  else if b = 0x02#8 then some (.error .notConfigured)
  else if b = 0x03#8 then some (.error .indexOutOfRange)
  else if b = 0x04#8 then some (.error .illegalCommand)
  else none

/-- What the host reads from a response packet (R65): the status, and the words after the header. -/
def decodeResponse : Packet → Option Response
  | [] => none
  | q :: data =>
    if headerRsv q ≠ 0 then none
    else (statusOfCode (headerOp q)).map fun status => ⟨status, data⟩

end Sys2Proof.Machine
end

