-- ==== Sys2Proof/Machine/Ops.lean ====
section
/-!
DEFINITION. The named operations every command is made of: the writes of the three pieces of engine state, the read and
write of one element (`00_scope.md` R15, `20_memory.md` R43), answering a command (`respond`), raising an error (`60_exceptions.md`
R144: the engine's only form of exception, from which there is nothing to return, R147), taking the next command packet
from the host, and the reset event (`70_reset_and_hazards.md` R160).
-/

namespace Sys2Proof.Machine

/-- What one step or command of this machine answers. -/
abbrev Result := Host.Outcome State Fault Refusal

/-! ## Writing the engine state (R15 `X' <- v`) -/

/-- `COEF' <- c`, all elements at once (R46). -/
def State.setCoef (c : List Word) (s : State) : State := { s with coef := some c }

/-- `SR' <- w`, all elements at once (R45). -/
def State.setSr (w : List Word) (s : State) : State := { s with sr := w }

/-- `ctrl' <- label` (R25). -/
def State.setCtrl (label : Ctrl) (s : State) : State := { s with ctrl := label }

/-! ## Reading one element (R15, R43) -/

/-- `MemRead(space, i)`: the element, or nothing where the space holds no value at `i` (R23, R44). -/
def memRead (space : Space) (i : Nat) (s : State) : Option Word :=
  match space with
  | .coef => s.coef.bind fun store => store[i]?
  | .sr => s.sr[i]?

/-- `MemWrite(space, i, v)`: element `i` becomes `v`, unchanged in width (R15, R43). No command writes one element alone
(R82, R90); the element-by-element realisations of `Machine/Realisations.lean` do. DESIGN CHOICE, safe: where the space has no
element `i` (an index of `N` or more, or `COEF` without a value), of which R15 and R43 say nothing, the state is unchanged
(assumption 26). -/
def memWrite (space : Space) (i : Nat) (v : Word) (s : State) : State :=
  match space with
  | .coef => { s with coef := s.coef.map fun store => store.set i v }
  | .sr => { s with sr := s.sr.set i v }

/-! ## Answering (R15, R65, R144) -/

/-- The response packet goes to the host, after all earlier ones (R48). -/
def answer (r : Response) (s : State) : State := { s with responses := s.responses ++ [encodeResponse r] }

/-- `respond OK, data`: ends the step (R15). -/
def respond (data : List Word) (s : State) : Result := .next (answer ⟨.ok, data⟩ s)

/-- `raise E`: ends the step with status `E`, no data, and the state unchanged (R15, R144). Nothing is saved, no mode
changes and control goes nowhere (R144), and nothing is kept after it (R147). -/
def raise (kind : ErrorKind) (s : State) : Result := .next (answer ⟨.error kind, []⟩ s)

/-! ## The command interface (R61, R165) -/

/-- The next command packet and the state without it, if the host has issued one. -/
def takeCommand (s : State) : Option (Packet × State) :=
  match s.commands with
  | [] => none
  | p :: rest => some (p, { s with commands := rest })

/-- The host issues a packet before any other it may have in mind. -/
def issueNext (p : Packet) (s : State) : State := { s with commands := p :: s.commands }

/-- With no command the engine "simply holds its state" (R154, R165; assumption 5). -/
def idle (s : State) : Result := .next s

/-- An illegal packet is answered `IllegalCommand` and changes nothing, whichever case of R68 it meets. -/
def rejectPacket (_why : Illegal) (s : State) : Result := raise .illegalCommand s

/-! ## The reset event (R160, R161) -/

/-- The effect of the reset event, should the platform assert it: the state of R31 again, with the coefficients
forgotten. It is no command and no step of the engine (assumption 15). -/
def resetEvent (s : State) : State :=
  { State.resetWith s.taps with commands := s.commands, responses := s.responses }

end Sys2Proof.Machine
end

