-- ==== Sys2Proof/Machine/CoefficientStore.lean ====
section
/-!
DEFINITION. The CoefficientStore (`40_coefficient_store.md`): the micro-operation `COEF_WRITE` (R80) and the command `TAP`
(R81). Nothing else writes `COEF` (R82).
-/

namespace Sys2Proof.Machine

/-- `COEF_WRITE(c)` (R80): the length is checked before any write; on success all elements are replaced at once. -/
def coefWrite (c : List Word) (s : State) : Except ErrorKind State :=
  if c.length ≠ s.taps then .error .coefficientLengthMismatch else .ok (s.setCoef c)

/-- `TAP i` (R81): the tests in the order of R146, then one element; nothing is written. -/
def execTap (index : Nat) (s : State) : Result :=
  if s.ctrl = .uninitialized then raise .notConfigured s
  else if s.taps ≤ index then raise .indexOutOfRange s
  else
    match memRead .coef index s with
    | none => .fault .coefficientAbsent
    | some v => respond [v] s

end Sys2Proof.Machine
end

