-- ==== Sys2Proof/Machine/FilterCore.lean ====
section
/-!
DEFINITION. The FilterCore (`42_filter_core.md`): the micro-operation `COMPUTE` (R100) in its three stages, the multiply
lanes (R102), the accumulator (R103) and the narrowing (R104). Every intermediate is an exact integer.
-/

namespace Sys2Proof.Machine

/-- Lane `k` multiplies `COEF[k]` by `SR[k]`, exactly (R101, R102). -/
def lanes (coefficients window : List Word) : List Int :=
  List.zipWith (fun c x => sext32 c * sext32 x) coefficients window

/-- `ACC`: the exact sum of the products, from 0, in lane order (R103, R107). -/
def accumulate (products : List Int) : Int := products.foldl (fun acc p => acc + p) 0

/-- The output word that carries `narrow_32(ACC)` (R104): no rounding, no shift, no saturation. -/
def narrow (acc : Int) : Word := word32 (narrow32 acc)

/-- The output for a coefficient vector and a window: a function of these two alone (R110). -/
def dotProduct (coefficients window : List Word) : Word := narrow (accumulate (lanes coefficients window))

/-- `COMPUTE` (R100) on the state's `COEF` and `SR`; nothing where `COEF` holds no value (R23). It writes nothing. -/
def compute (s : State) : Option Word := s.coef.map fun c => dotProduct c s.sr

end Sys2Proof.Machine
end

