-- ==== Sys2Proof/Machine/ShiftRegister.lean ====
section
/-!
DEFINITION. The ShiftRegister (`41_shift_register.md`): the micro-operations `SR_PUSH` (R90) and `SR_CLEAR` (R91) and the
command `WINDOW` (R92).
-/

namespace Sys2Proof.Machine

/-- The new window of a push: `[x] ++ SR[0 .. N-2]` (R90). -/
def shiftIn (n : Nat) (x : Word) (w : List Word) : List Word := x :: w.take (n - 1)

/-- `SR_PUSH(x)` (R90): one atomic transition of the whole array; the oldest element is discarded. -/
def srPush (x : Word) (s : State) : State := s.setSr (shiftIn s.taps x s.sr)

/-- `SR_CLEAR` (R91): all `N` positions become zero together. -/
def srClear (s : State) : State := s.setSr (List.replicate s.taps 0#32)

/-- `WINDOW` (R92): the current view, newest first; legal under every label; nothing is written. -/
def execWindow (s : State) : Result := respond s.sr s

end Sys2Proof.Machine
end

