-- ==== Sys2Proof/Machine/StreamController.lean ====
section
/-!
DEFINITION. The StreamController (`43_stream_controller.md`): the commands `LOAD` (R121), `RESET` (R122) and `PROCESS` (R123),
which are the only writers of the engine state (R126).
-/

namespace Sys2Proof.Machine

/-- `LOAD c` (R121): valid under every label; on success `COEF' = c` and the label becomes `CoefficientsLoaded`; the
sample history is kept. -/
def execLoad (coefficients : List Word) (s : State) : Result :=
  match coefWrite coefficients s with
  | .error kind => raise kind s
  | .ok s' => respond [] (s'.setCtrl .coefficientsLoaded)

/-- `RESET` (R122): clears the sample history only; coefficients and label are kept. -/
def execReset (s : State) : Result := respond [] (srClear s)

/-- `PROCESS x` (R123): the test first, then the push, then the computation on the NEW window. -/
def execProcess (sample : Word) (s : State) : Result :=
  if s.ctrl = .uninitialized then raise .notConfigured s
  else
    match compute (srPush sample s) with
    | none => .fault .coefficientAbsent
    | some y => respond [y] ((srPush sample s).setCtrl .streaming)

end Sys2Proof.Machine
end

