-- ==== Sys2Proof/Machine/Dispatch.lean ====
section
/-! DEFINITION. The dispatch of the five commands to their meanings, one arm per row of `spec/opcode_table.json`. -/

namespace Sys2Proof.Machine

def exec (i : Instr) (s : State) : Host.Outcome State Fault Refusal :=
  match i with
  | .reset => Sys2Proof.Machine.execReset s
  | .load coefficients => Sys2Proof.Machine.execLoad coefficients s
  | .process sample => Sys2Proof.Machine.execProcess sample s
  | .tap index => Sys2Proof.Machine.execTap index s
  | .window => Sys2Proof.Machine.execWindow s

end Sys2Proof.Machine
end

