-- ==== Sys2Proof/Machine/Step.lean ====
section
/-!
DEFINITION. One step: one command, from its packet to its response (`00_scope.md` R11, `30_encoding.md` R70). The engine has no
program counter and fetches nothing (`10_state.md` R29): the next command is the next packet the host issues.
-/

namespace Sys2Proof.Machine

/-- Take the next packet, decode it without looking at the engine state (R69), and run it or answer `IllegalCommand`
(R68, R146). -/
def step (s : State) : Host.Outcome State Fault Refusal :=
  match takeCommand s with
  | none => idle s
  | some (packet, s') =>
    match decode packet with
    | .error why => rejectPacket why s'
    | .ok i => exec i s'

/-- The state in which the host's next command packet is the given table word (assumption 7). -/
def State.withFetchWord (s : State) (nbits w : Nat) : State := issueNext (tablePacket nbits w) s

end Sys2Proof.Machine
end

