-- ==== Sys2Proof/Machine/Realisations.lean ====
section
/-!
DEFINITION. Realisations the spec allows and says cannot be told from the engine: a push element by element from the oldest
position down (`41_shift_register.md` R90), a ring buffer for the shift register (R93), and an accumulator of any width
`A >= 32` fed in any order or grouping (`42_filter_core.md` R106, R107). They are not the machine; the statements about them
say that they give the machine's results.
-/

namespace Sys2Proof.Machine

/-- `SR[i+1] <- SR[i]`, one element. -/
def copyUp (i : Nat) (s : State) : State := memWrite .sr (i + 1) ((memRead .sr i s).getD 0#32) s

/-- The sequential push that runs from `i = N-2` down to `0`, then writes the sample (R90). -/
def pushDownward (x : Word) (s : State) : State :=
  memWrite .sr 0 x ((List.range (s.taps - 1)).reverse.foldl (fun u i => copyUp i u) s)

/-- The sequential push that runs upward, which R90 says is wrong: it smears `SR[0]` over the array. -/
def pushUpward (x : Word) (s : State) : State :=
  memWrite .sr 0 x ((List.range (s.taps - 1)).foldl (fun u i => copyUp i u) s)

/-- A ring buffer: the cells and the index of the newest sample (R93). The head is no architectural state. -/
structure RingBuffer where
  cells : List Word
  head  : Nat
  deriving DecidableEq, Repr

/-- The window a ring shows, newest first. -/
def RingBuffer.view (r : RingBuffer) : List Word :=
  (List.range r.cells.length).map fun i => r.cells.getD ((r.head + i) % r.cells.length) 0#32

/-- A push moves the head back by one cell and overwrites the oldest sample. -/
def RingBuffer.push (x : Word) (r : RingBuffer) : RingBuffer :=
  { cells := r.cells.set ((r.head + r.cells.length - 1) % r.cells.length) x
    head := (r.head + r.cells.length - 1) % r.cells.length }

/-- An order and grouping of the lane products: nothing added yet, one lane, or the sum of two parts (R107). -/
inductive AdderTree where
  | zero
  | lane (k : Nat)
  | add (left right : AdderTree)
  deriving DecidableEq, Repr

/-- The lanes a tree adds, from left to right. -/
def AdderTree.lanesUsed : AdderTree → List Nat
  | .zero => []
  | .lane k => [k]
  | .add l r => l.lanesUsed ++ r.lanesUsed

/-- The product of lane `k` in an `A`-bit realisation: formed exactly and then wrapped, or from wrapped operands (R106). -/
def laneProduct (width : Nat) (exactly : Bool) (coefficients window : List Word) (k : Nat) : BitVec width :=
  if exactly then BitVec.ofInt width (sext32 (coefficients.getD k 0#32) * sext32 (window.getD k 0#32))
  else BitVec.ofInt width (sext32 (coefficients.getD k 0#32)) * BitVec.ofInt width (sext32 (window.getD k 0#32))

/-- The `A`-bit running sum, wrapping at every addition (R106). -/
def AdderTree.sum (width : Nat) (exactly : Bool) (coefficients window : List Word) : AdderTree → BitVec width
  | .zero => 0#width
  | .lane k => laneProduct width exactly coefficients window k
  | .add l r => l.sum width exactly coefficients window + r.sum width exactly coefficients window

/-- The realisation's output word: its signed `A`-bit register, narrowed as the accumulator is (R104, R106). -/
def AdderTree.output (width : Nat) (exactly : Bool) (coefficients window : List Word) (t : AdderTree) : Word :=
  narrow (t.sum width exactly coefficients window).toInt

end Sys2Proof.Machine
end

