-- ==== Sys2Proof/Machine/Sessions.lean ====
section
/-!
DEFINITION. Several engines side by side (`20_memory.md` R52, `60_exceptions.md` R152): "a model of several engines is the product
of independent single-engine models". Engines of different `N` may stand in one list.
-/

namespace Sys2Proof.Machine

/-- The engines of a platform, each with its own state and its own `N`. -/
abbrev Sessions := List State

/-- Engine `k` takes one step; nothing where there is no engine `k` or it stops. -/
def stepSession (k : Nat) (engines : Sessions) : Option Sessions :=
  match engines[k]? with
  | none => none
  | some s =>
    match step s with
    | .next t => some (engines.set k t)
    | .fault _ => none
    | .refused _ => none

end Sys2Proof.Machine
end

