-- ==== Sys2Proof/Machine/HostProcedures.lean ====
section
/-!
DEFINITION. The host's side: issuing one command and reading its response (`30_encoding.md` R61, R65, `70_reset_and_hazards.md`
R166), and the two pseudo-commands built from commands (R72, `43_stream_controller.md` R124, R125). The engine never sees a
pseudo-command. A procedure answers `none` only if the engine stopped or gave no readable response (assumption 16).
-/

namespace Sys2Proof.Machine

/-- The response to the latest command, as the host reads it. -/
def lastResponse (s : State) : Option Response := s.responses.getLast?.bind decodeResponse

/-- The host issues one command, the engine takes one step, the host reads the response (R166). -/
def call (i : Instr) (s : State) : Option (State × Response) :=
  match step (issueNext (encode i) s) with
  | .next t => (lastResponse t).map fun r => (t, r)
  | .fault _ => none
  | .refused _ => none

/-- `PROCESS_STREAM` (R124): one `PROCESS` per sample, in order, stopping at the first status that is not `OK`. -/
def processStream : List Word → State → Option (State × Response)
  | [], s => some (s, ⟨.ok, []⟩)
  | x :: rest, s =>
    match call (.process x) s with
    | none => none
    | some (s1, r1) =>
      if r1.status ≠ .ok then some (s1, ⟨r1.status, []⟩)
      else
        match processStream rest s1 with
        | none => none
        | some (s2, r2) =>
          if r2.status ≠ .ok then some (s2, ⟨r2.status, []⟩) else some (s2, ⟨.ok, r1.data ++ r2.data⟩)

/-- `FILTER` (R125): `LOAD`, then `RESET`, then the stream; a failed `LOAD` ends it and nothing more is sent. -/
def filter (coefficients samples : List Word) (s : State) : Option (State × Response) :=
  match call (.load coefficients) s with
  | none => none
  | some (s1, r1) =>
    if r1.status ≠ .ok then some (s1, ⟨r1.status, []⟩)
    else
      match call .reset s1 with
      | none => none
      | some (s2, _) => processStream samples s2

/-- The commands `PROCESS_STREAM` expands to (R72). -/
def expandProcessStream (samples : List Word) : List Instr := samples.map .process

/-- The commands `FILTER` expands to (R72). -/
def expandFilter (coefficients samples : List Word) : List Instr :=
  .load coefficients :: .reset :: expandProcessStream samples

/-- A whole run (R165): the packets are issued one at a time from `s`; it is over when the last one is answered. -/
def runPackets : List Packet → State → Option State
  | [], s => some s
  | p :: rest, s =>
    match step (issueNext p s) with
    | .next t => runPackets rest t
    | .fault _ => none
    | .refused _ => none

end Sys2Proof.Machine
end

