-- ==== Sys2Proof/Machine/Text.lean ====
section
/-!
DEFINITION. The textual syntax of `30_encoding.md` R71: one command per line, mnemonic in capitals, operands in decimal or `0x`
hexadecimal words, separated by commas, `;` starting a comment; a response as the status name and the data in brackets.
What a line of text is that R71 does not spell out (white space, letter case of hexadecimal digits) is assumption 20.
-/

namespace Sys2Proof.Machine

/-- One line of a command sequence (R71, R72). -/
inductive SourceLine where
  | blank
  | command (i : Instr)
  | processStream (samples : List Word)
  | filter (coefficients samples : List Word)
  deriving DecidableEq, Repr

/-- An operand as it is written. -/
inductive Literal where
  | decimal (v : Int)
  | hexWord (w : Nat)
  deriving DecidableEq, Repr

/-! ## Reading -/

def isSpace (c : Char) : Bool := c == ' ' || c == '\t'

def trim (t : List Char) : List Char := ((t.dropWhile isSpace).reverse.dropWhile isSpace).reverse

/-- The text before a `;` (R71). -/
def withoutComment (t : List Char) : List Char := t.takeWhile fun c => c != ';'

def decimalDigit (c : Char) : Option Nat :=
  if '0' ≤ c ∧ c ≤ '9' then some (c.toNat - '0'.toNat) else none

def hexDigit (c : Char) : Option Nat :=
  if '0' ≤ c ∧ c ≤ '9' then some (c.toNat - '0'.toNat)
  else if 'a' ≤ c ∧ c ≤ 'f' then some (c.toNat - 'a'.toNat + 10)
  else if 'A' ≤ c ∧ c ≤ 'F' then some (c.toNat - 'A'.toNat + 10)
  else none

/-- The number written by digits in a base, most significant first, continuing from `acc`. -/
def readDigits (base : Nat) (digit : Char → Option Nat) : Nat → List Char → Option Nat
  | acc, [] => some acc
  | acc, c :: rest =>
    match digit c with
    | none => none
    | some d => readDigits base digit (acc * base + d) rest

/-- A number of at least one digit. -/
def readNumber (base : Nat) (digit : Char → Option Nat) : List Char → Option Nat
  | [] => none
  | c :: rest => readDigits base digit 0 (c :: rest)

/-- One operand: `0x…`, `-…` or decimal digits (R71). -/
def readLiteral : List Char → Option Literal
  | '0' :: 'x' :: digits => (readNumber 16 hexDigit digits).map .hexWord
  | '-' :: digits => (readNumber 10 decimalDigit digits).map fun n => .decimal (-(n : Int))
  | t => (readNumber 10 decimalDigit t).map fun n => .decimal (n : Int)

/-- A coefficient or a sample: a signed 32-bit number, or a word (R60, R71). -/
def Literal.asSample : Literal → Option Word
  | .decimal v => if -2147483648 ≤ v ∧ v < 2147483648 then some (word32 v) else none
  | .hexWord w => if w < 4294967296 then some (BitVec.ofNat 32 w) else none

/-- An index: an unsigned 32-bit number, or a word (R60, R71). -/
def Literal.asIndex : Literal → Option Nat
  | .decimal v => if 0 ≤ v ∧ v < 4294967296 then some v.toNat else none
  | .hexWord w => if w < 4294967296 then some w else none

/-- The pieces between commas. -/
def splitAtCommas : List Char → List (List Char)
  | [] => [[]]
  | c :: rest =>
    match splitAtCommas rest with
    | [] => [[c]]
    | piece :: pieces => if c == ',' then [] :: piece :: pieces else (c :: piece) :: pieces

/-- All of a list of results, or nothing. -/
def allSome {α : Type} : List (Option α) → Option (List α)
  | [] => some []
  | none :: _ => none
  | some a :: rest => (allSome rest).map fun as => a :: as

/-- A comma-separated list of samples; nothing written is the empty list (R71: `LOAD` with no operand). -/
def readSamples (t : List Char) : Option (List Word) :=
  if (trim t).isEmpty then some []
  else allSome ((splitAtCommas t).map fun piece => (readLiteral (trim piece)).bind Literal.asSample)

/-- A bracketed list of samples and the text after it. -/
def readBracketed : List Char → Option (List Word × List Char)
  | '[' :: rest =>
    match rest.dropWhile fun c => c != ']' with
    | ']' :: after => (readSamples (rest.takeWhile fun c => c != ']')).map fun xs => (xs, after)
    | _ => none
  | _ => none

/-- The two bracketed lists of `FILTER`. -/
def readFilter (t : List Char) : Option SourceLine :=
  match readBracketed (trim t) with
  | none => none
  | some (coefficients, after) =>
    match trim after with
    | ',' :: rest =>
      match readBracketed (trim rest) with
      | some (samples, after2) => if (trim after2).isEmpty then some (.filter coefficients samples) else none
      | none => none
    | _ => none

/-- One line of text (R71). -/
def parseChars (line : List Char) : Option SourceLine :=
  let text := trim (withoutComment line)
  let word := text.takeWhile fun c => !isSpace c
  let operands := trim (text.dropWhile fun c => !isSpace c)
  if text.isEmpty then some .blank
  else if word = "RESET".toList then if operands.isEmpty then some (.command .reset) else none
  else if word = "WINDOW".toList then if operands.isEmpty then some (.command .window) else none
  else if word = "LOAD".toList then (readSamples operands).map fun cs => .command (.load cs)
  else if word = "PROCESS".toList then
    ((readLiteral operands).bind Literal.asSample).map fun x => .command (.process x)
  else if word = "TAP".toList then ((readLiteral operands).bind Literal.asIndex).map fun i => .command (.tap i)
  else if word = "PROCESS_STREAM".toList then (readSamples operands).map .processStream
  else if word = "FILTER".toList then readFilter operands
  else none

/-- One line of text, as a string (R71). -/
def parseLine (line : String) : Option SourceLine := parseChars line.toList

/-- The commands a line stands for (R72). -/
def SourceLine.expand : SourceLine → List Instr
  | .blank => []
  | .command i => [i]
  | .processStream samples => expandProcessStream samples
  | .filter coefficients samples => expandFilter coefficients samples

/-! ## Writing -/

def digitChar (d : Nat) : Char := Char.ofNat ('0'.toNat + d)

/-- The decimal digits of a number of at most `fuel` digits, most significant first. -/
def decimalChars : Nat → Nat → List Char
  | 0, _ => []
  | fuel + 1, n => if n < 10 then [digitChar n] else decimalChars fuel (n / 10) ++ [digitChar (n % 10)]

/-- A 32-bit number has at most ten decimal digits; of a larger number the last ten are written (assumption 25). -/
def natText (n : Nat) : List Char := decimalChars 10 n

/-- A sample as a signed decimal number (R71). -/
def sampleText (w : Word) : List Char :=
  if sext32 w < 0 then '-' :: natText (-(sext32 w)).toNat else natText (sext32 w).toNat

/-- Samples separated by commas. -/
def samplesText : List Word → List Char
  | [] => []
  | [w] => sampleText w
  | w :: w2 :: rest => sampleText w ++ ',' :: ' ' :: samplesText (w2 :: rest)

/-- A mnemonic and its operands, with no space after a mnemonic that has none. -/
def withOperands (mnemonic operands : List Char) : List Char :=
  if operands.isEmpty then mnemonic else mnemonic ++ ' ' :: operands

/-- The text of a command (R71). -/
def commandChars : Instr → List Char
  | .reset => "RESET".toList
  | .load coefficients => withOperands "LOAD".toList (samplesText coefficients)
  | .process sample => withOperands "PROCESS".toList (sampleText sample)
  | .tap index => withOperands "TAP".toList (natText index)
  | .window => "WINDOW".toList

/-- The name of a status (R67). -/
def Status.name : Status → String
  | .ok => "OK"
  | .error .coefficientLengthMismatch => "CoefficientLengthMismatch"
  | .error .notConfigured => "NotConfigured"
  | .error .indexOutOfRange => "IndexOutOfRange"
  | .error .illegalCommand => "IllegalCommand"

/-- The text of a response: the status name and the data in brackets (R71). -/
def responseChars (r : Response) : List Char :=
  r.status.name.toList ++ ' ' :: '[' :: (samplesText r.data ++ [']'])

/-- The text of a command, as a string (R71). -/
def commandText (i : Instr) : String := String.ofList (commandChars i)

/-- A command and its response on one line: `PROCESS 1 => OK [1]` (R71). -/
def exchangeText (i : Instr) (r : Response) : String :=
  String.ofList (commandChars i ++ " => ".toList ++ responseChars r)

end Sys2Proof.Machine
end

