-- ==== Sys2Proof/Safety.lean ====
section
/-!
DEFINITION. What claims are stated in terms of: the invariant of the engine state (`10_state.md` R26, R32, `00_scope.md` R6, R66),
the two natural start states of a claim (`70_reset_and_hazards.md` R164), runs and reachable states (R165).
-/

namespace Sys2Proof.Machine

/-- The invariant of one engine instance. -/
structure State.Inv (s : State) : Prop where
  /-- `N >= 1` (R6). -/
  taps_pos : Config.minTaps ≤ s.taps
  /-- `N <= 2^32 - 1` (R66). -/
  taps_le : s.taps ≤ Config.maxTaps
  /-- `len(SR) = N` (R32). -/
  sr_length : s.sr.length = s.taps
  /-- `COEF` holds no value or exactly `N` elements (R32). -/
  coef_length : ∀ c, s.coef = some c → c.length = s.taps
  /-- `ctrl = Uninitialized` exactly when `COEF` holds no value (R26). -/
  uninitialized_iff : s.ctrl = .uninitialized ↔ s.coef = none

/-- Start (b) of R164: a configured engine whose store holds `c`, within the invariant. -/
structure State.ConfiguredWith (c : List Word) (s : State) : Prop where
  inv : s.Inv
  configured : s.ctrl ≠ .uninitialized
  holds : s.coef = some c

/-- The engine state of two states is the same: `N`, `COEF`, `SR` and `ctrl`. -/
structure State.SameEngine (s t : State) : Prop where
  taps : s.taps = t.taps
  coef : s.coef = t.coef
  sr : s.sr = t.sr
  ctrl : s.ctrl = t.ctrl

/-- Two configured states that differ at most in the label being `Streaming` or `CoefficientsLoaded` (R134). -/
structure State.SameUpToLabel (s t : State) : Prop where
  taps : s.taps = t.taps
  coef : s.coef = t.coef
  sr : s.sr = t.sr
  left_configured : s.ctrl ≠ .uninitialized
  right_configured : t.ctrl ≠ .uninitialized

/-- The states that runs reach: a session starts in the reset state of some `N` with any packets to come (R31, R164), and
goes on by steps. -/
inductive State.Reachable : State → Prop where
  | start (n : Nat) (packets : List Packet) (least : Config.minTaps ≤ n) (most : n ≤ Config.maxTaps) :
      State.Reachable { State.resetWith n with commands := packets }
  | next (s t : State) (before : State.Reachable s) (taken : step s = .next t) : State.Reachable t

/-- A packet that is none of the five commands, in the words of R68: (a) no word, (b) an unassigned opcode, (c) a reserved
field that is not zero, (d) a word count that does not fit the format. Written on the header's number (`OP` is its quotient by `2^24 = 16777216`, `RSV` its remainder), without the decoder. -/
def illegalPacket : Packet → Prop
  | [] => True
  | h :: payload =>
    h.toNat / 16777216 = 0 ∨ 6 ≤ h.toNat / 16777216 ∨ h.toNat % 16777216 ≠ 0 ∨
      ((h.toNat / 16777216 = 1 ∨ h.toNat / 16777216 = 5) ∧ payload.length ≠ 0) ∨
      ((h.toNat / 16777216 = 3 ∨ h.toNat / 16777216 = 4) ∧ payload.length ≠ 1)

/-- The host's duties of R168 and R169 on what it regards as one stream: no `LOAD` among its commands. -/
def streamKeepsCoefficients (commands : List Instr) : Bool :=
  commands.all fun i => match i with
    | .load _ => false
    | .reset => true
    | .process _ => true
    | .tap _ => true
    | .window => true

end Sys2Proof.Machine
end

