-- ==== Sys2Proof/Certificates/Slice0/Obligations.lean ====
section
/-!
DEFINITION. The statements for the provers. Each says which rule of `spec/` it formalises. Responses are written as the
packet words the host sees (`30_encoding.md` R65, R67): `0x00000000` is `OK`, then the data words; `0x01000000` to
`0x04000000` are the four errors.
-/

open Sys2Proof Sys2Proof.Machine

/-! ## Encoding -/

/-- R63: the header word and format of each of the five commands, on packets written out word by word. The encoding is
the spec's own decision D1 (assumption 9). -/
def Obligations.TableHeaderWordsDecodeToTheirCommands : Prop :=
  decode [0x01000000#32] = .ok .reset ∧
  decode [0x02000000#32] = .ok (.load []) ∧
  decode [0x02000000#32, 0x00000001#32, 0xFFFFFFFE#32, 0x00000003#32] = .ok (.load [1#32, -2#32, 3#32]) ∧
  decode [0x03000000#32, 0xFFFFFFFF#32] = .ok (.process (-1#32)) ∧
  decode [0x04000000#32, 0x00000062#32] = .ok (.tap 98) ∧
  decode [0x04000000#32, 0xFFFFFFFF#32] = .ok (.tap 4294967295) ∧
  decode [0x05000000#32] = .ok .window

/-- R69: what the decoder accepts, packet by packet, and that the encoder is its inverse in both directions. The
encoding is the spec's own decision D1 (assumption 9). -/
def Obligations.DecodeAndEncodeAreInverse : Prop :=
  (∀ (p : Packet) (i : Instr), decode p = .ok i ↔
    (p = [0x01000000#32] ∧ i = .reset) ∨
    (∃ c, p = 0x02000000#32 :: c ∧ i = .load c) ∨
    (∃ x, p = [0x03000000#32, x] ∧ i = .process x) ∨
    (∃ w, p = [0x04000000#32, w] ∧ i = .tap w.toNat) ∨
    (p = [0x05000000#32] ∧ i = .window)) ∧
  (∀ i : Instr, WellFormed i → decode (encode i) = .ok i) ∧
  (∀ (p : Packet) (i : Instr), decode p = .ok i → WellFormed i ∧ encode i = p)

/-- R68: the packets that are illegal are exactly those the decoder rejects, and the engine answers each of them with
`IllegalCommand`, no data and no change of state. These packets and their answer are the spec's own decision D5
(assumption 9). -/
def Obligations.IllegalPacketsAreAnsweredAndChangeNothing : Prop :=
  ∀ p : Packet,
    (illegalPacket p ↔ ∃ why, decode p = .error why) ∧
    ∀ (s : State) (rest : List Packet), illegalPacket p → s.commands = p :: rest →
      step s = .next { s with commands := rest, responses := s.responses ++ [[0x04000000#32]] }

/-- R64: coefficients and samples are read signed, in index order; the index of `TAP` is read unsigned. The encoding is
the spec's own decision D1, two's complement its general knowledge (D7; assumptions 8 and 9). -/
def Obligations.OperandsAreAssembledAsWritten : Prop :=
  (∀ w : Word, sext32 w = if w.toNat < 2147483648 then (w.toNat : Int) else (w.toNat : Int) - 4294967296) ∧
  sext32 0xFFFFFFFF#32 = -1 ∧ sext32 0x80000000#32 = -2147483648 ∧ sext32 0x7FFFFFFF#32 = 2147483647 ∧
  (∀ c : List Word, decode (0x02000000#32 :: c) = .ok (.load c)) ∧
  (∀ x : Word, decode [0x03000000#32, x] = .ok (.process x)) ∧
  (∀ w : Word, decode [0x04000000#32, w] = .ok (.tap w.toNat))

/-- R14 for `K = W = 32`: the conversions between words and integers are inverse to each other in range, and `narrow_32`
has the closed form the rule gives. -/
def Obligations.WordConversionsAgree : Prop :=
  (∀ w : Word, word32 (sext32 w) = w) ∧
  (∀ v : Int, -2147483648 ≤ v → v ≤ 2147483647 → sext32 (word32 v) = v ∧ narrow32 v = v) ∧
  (∀ a : Int, narrow32 a = (a + 2147483648) % 4294967296 - 2147483648) ∧
  (∀ a : Int, ((word32 a).toNat : Int) = a % 4294967296)

/-- R67: the status numbers, and that a response packet carries status and data without loss. The numbers are the spec's
own decision D4 (assumption 9). -/
def Obligations.StatusNumbersAndResponsePackets : Prop :=
  (∀ data : List Word,
    encodeResponse ⟨.ok, data⟩ = 0x00000000#32 :: data ∧
    encodeResponse ⟨.error .coefficientLengthMismatch, data⟩ = 0x01000000#32 :: data ∧
    encodeResponse ⟨.error .notConfigured, data⟩ = 0x02000000#32 :: data ∧
    encodeResponse ⟨.error .indexOutOfRange, data⟩ = 0x03000000#32 :: data ∧
    encodeResponse ⟨.error .illegalCommand, data⟩ = 0x04000000#32 :: data) ∧
  (∀ r : Response, decodeResponse (encodeResponse r) = some r) ∧
  (∀ b : BitVec 8, 5 ≤ b.toNat → ∀ status : Status, status.code ≠ b)

/-- R71 (the model's own reading of white space and digits is assumption 20): reading the text the model writes for a
command gives the command back. The notation is the spec's own decision D20. -/
def Obligations.CommandTextReadsBack : Prop :=
  ∀ i : Instr, WellFormed i → parseChars (commandChars i) = some (.command i)

/-! ## The step -/

/-- R11, R70: a step with a waiting packet that decodes is the command itself, on the state without that packet. -/
def Obligations.StepRunsTheDecodedCommand : Prop :=
  ∀ (s : State) (p : Packet) (rest : List Packet) (i : Instr),
    s.commands = p :: rest → decode p = .ok i → step s = exec i { s with commands := rest }

/-- A table word that decodes is what the next step runs (the framing of a table word is the model's, assumption 7). -/
def Obligations.TableWordRunsInTheNextStep : Prop :=
  ∀ (s : State) (nbits w : Nat) (i : Instr),
    decodeTableWord nbits w = some i → step (s.withFetchWord nbits w) = exec i s

/-- R154, R165 (that a step without a command is the identity is assumption 5): between commands the engine holds its
state. -/
def Obligations.IdleEngineHoldsItsState : Prop :=
  ∀ s : State, s.commands = [] → step s = .next s

/-- R70: exactly one response and exactly one next state for every packet in every state; an illegal packet leaves the
engine as it was, a legal one gives what its command gives. -/
def Obligations.EveryPacketGetsExactlyOneResponse : Prop :=
  ∀ (s : State) (p : Packet) (rest : List Packet), s.Inv → s.commands = p :: rest →
    ∃ t r, step s = .next t ∧ t.commands = rest ∧ t.responses = s.responses ++ [encodeResponse r] ∧
      (∀ why, decode p = .error why → r = ⟨.error .illegalCommand, []⟩ ∧ s.SameEngine t) ∧
      (∀ i, decode p = .ok i → exec i { s with commands := rest } = .next t)

/-- R120 and R141: the table of every command in every state: status, number of data words, and state change. -/
def Obligations.EveryCommandInEveryStateFollowsTheTable : Prop :=
  ∀ (s : State) (p : Packet) (rest : List Packet), s.Inv → s.commands = p :: rest →
    ∃ t status data, step s = .next t ∧ t.commands = rest ∧ t.taps = s.taps ∧
      t.responses = s.responses ++ [encodeResponse ⟨status, data⟩] ∧
      match decode p with
      | .error _ => status = .error .illegalCommand ∧ data = [] ∧ s.SameEngine t
      | .ok (.load c) =>
        if c.length = s.taps then
          status = .ok ∧ data = [] ∧ t.coef = some c ∧ t.sr = s.sr ∧ t.ctrl = .coefficientsLoaded
        else status = .error .coefficientLengthMismatch ∧ data = [] ∧ s.SameEngine t
      | .ok .reset =>
        status = .ok ∧ data = [] ∧ t.coef = s.coef ∧ t.sr = List.replicate s.taps 0#32 ∧ t.ctrl = s.ctrl
      | .ok (.process x) =>
        if s.ctrl = .uninitialized then status = .error .notConfigured ∧ data = [] ∧ s.SameEngine t
        else
          status = .ok ∧ data.length = 1 ∧ t.coef = s.coef ∧ t.sr = x :: s.sr.take (s.taps - 1) ∧
            t.ctrl = .streaming
      | .ok (.tap i) =>
        if s.ctrl = .uninitialized then status = .error .notConfigured ∧ data = [] ∧ s.SameEngine t
        else if s.taps ≤ i then status = .error .indexOutOfRange ∧ data = [] ∧ s.SameEngine t
        else status = .ok ∧ data.length = 1 ∧ s.SameEngine t
      | .ok .window => status = .ok ∧ data.length = s.taps ∧ s.SameEngine t

/-- R146: the priority of the tests: an illegal packet first, then a store without a value, then index and length; none of
these answers changes the state. The order is the spec's own decision D14, the errors on illegal packets and of `TAP` are D5,
D10 and D12 (assumptions 9 and 14), and that a refused `LOAD` and a refused `PROCESS` change nothing are D11 and D18
(assumption 13). -/
def Obligations.ErrorPriorityIsFixed : Prop :=
  (∀ (s : State) (p : Packet) (rest : List Packet), s.commands = p :: rest → illegalPacket p →
    step s = .next { s with commands := rest, responses := s.responses ++ [[0x04000000#32]] }) ∧
  (∀ (s : State) (i : Nat), s.ctrl = .uninitialized →
    exec (.tap i) s = .next { s with responses := s.responses ++ [[0x02000000#32]] }) ∧
  (∀ (s : State) (x : Word), s.ctrl = .uninitialized →
    exec (.process x) s = .next { s with responses := s.responses ++ [[0x02000000#32]] }) ∧
  (∀ (s : State) (i : Nat), s.ctrl ≠ .uninitialized → s.taps ≤ i →
    exec (.tap i) s = .next { s with responses := s.responses ++ [[0x03000000#32]] }) ∧
  (∀ (s : State) (c : List Word), c.length ≠ s.taps →
    exec (.load c) s = .next { s with responses := s.responses ++ [[0x01000000#32]] })

/-- R65: status `OK` comes with the number of data words the command fixes, any error with none. The response packet is
the spec's own decision D4 (assumption 9). -/
def Obligations.DataWordCountFollowsCommandAndStatus : Prop :=
  ∀ (i : Instr) (s t : State) (r : Response), s.Inv → exec i s = .next t →
    t.responses = s.responses ++ [encodeResponse r] →
    (r.status ≠ .ok → r.data = []) ∧
    (r.status = .ok → r.data.length =
      match i with
      | .reset => 0
      | .load _ => 0
      | .process _ => 1
      | .tap _ => 1
      | .window => s.taps)

/-- R48, R165: a run of packets is answered packet by packet, in order. What a run is, is the spec's own decision D21. The
last clause is about the model's own queue `commands`, its choice of assumption 3 and no rule of the spec: as many steps of
the machine on a state whose queue starts with these packets give the same run. -/
def Obligations.RunsAnswerInCommandOrder : Prop :=
  ∀ (s : State) (ps qs rest : List Packet), s.Inv → s.commands = rest →
    ∃ t u answers, runPackets ps s = some t ∧ runPackets (ps ++ qs) s = some u ∧ runPackets qs t = some u ∧
      answers.length = ps.length ∧ t.responses = s.responses ++ answers ∧ t.commands = rest ∧
      Host.Core.run Sys2Proof.core ps.length { s with commands := ps ++ rest } = .next t

/-! ## The five commands -/

/-- R80: the micro-operation `COEF_WRITE` checks the length before any write. That a failing write keeps every element
is the spec's own decision D11 (assumption 13): the failure gives no state here. -/
def Obligations.CoefWriteChecksLengthThenReplacesAll : Prop :=
  ∀ (c : List Word) (s : State),
    (c.length ≠ s.taps → coefWrite c s = .error .coefficientLengthMismatch) ∧
    (c.length = s.taps → coefWrite c s = .ok { s with coef := some c })

/-- R121: `LOAD`, its packet and its effect under every label. That a failed `LOAD` changes nothing, and that one is
accepted while `Streaming`, are the spec's own decisions D11 and D19 (assumption 13); that `SR` is kept is its
inference. -/
def Obligations.LoadReplacesTheStoreOrIsRefused : Prop :=
  ∀ (c : List Word) (s : State), encode (.load c) = 0x02000000#32 :: c ∧
    (c.length = s.taps → exec (.load c) s =
      .next { s with coef := some c, ctrl := .coefficientsLoaded, responses := s.responses ++ [[0x00000000#32]] }) ∧
    (c.length ≠ s.taps → exec (.load c) s =
      .next { s with responses := s.responses ++ [[0x01000000#32]] })

/-- R122: `RESET`, its packet; it clears the sample history and nothing else, under every label. -/
def Obligations.ResetClearsTheHistoryOnly : Prop :=
  encode .reset = [0x01000000#32] ∧
  ∀ s : State, exec .reset s =
    .next { s with sr := List.replicate s.taps 0#32, responses := s.responses ++ [[0x00000000#32]] }

/-- R123: `PROCESS`, its packet and both its cases, with the closed form of the output. That a refused sample is not
pushed is the spec's own decision D18 (assumption 13), the wraparound D7 (assumption 8). -/
def Obligations.ProcessPushesThenComputes : Prop :=
  ∀ (s : State) (x : Word), s.Inv → encode (.process x) = [0x03000000#32, x] ∧
    (s.ctrl = .uninitialized → exec (.process x) s =
      .next { s with responses := s.responses ++ [[0x02000000#32]] }) ∧
    (s.ctrl ≠ .uninitialized → ∃ c y, s.coef = some c ∧
      exec (.process x) s =
        .next { s with
          sr := x :: s.sr.take (s.taps - 1)
          ctrl := .streaming
          responses := s.responses ++ [[0x00000000#32, y]] } ∧
      sext32 y = narrow32 (sext32 (c.getD 0 0#32) * sext32 x +
        ∑ k ∈ Finset.Icc 1 (s.taps - 1), sext32 (c.getD k 0#32) * sext32 (s.sr.getD (k - 1) 0#32)))

/-- R81: `TAP`, its packet and its three cases; it writes nothing. The two errors are the spec's own decisions D12 and
D10 (assumption 14). -/
def Obligations.TapReadsOneCoefficient : Prop :=
  (∀ w : Word, encode (.tap w.toNat) = [0x04000000#32, w]) ∧
  ∀ (s : State) (i : Nat), s.Inv →
    (s.ctrl = .uninitialized → exec (.tap i) s =
      .next { s with responses := s.responses ++ [[0x02000000#32]] }) ∧
    (s.ctrl ≠ .uninitialized → s.taps ≤ i → exec (.tap i) s =
      .next { s with responses := s.responses ++ [[0x03000000#32]] }) ∧
    (s.ctrl ≠ .uninitialized → i < s.taps → ∃ c v, s.coef = some c ∧ c.drop i = v :: c.drop (i + 1) ∧
      exec (.tap i) s = .next { s with responses := s.responses ++ [[0x00000000#32, v]] })

/-- R92: `WINDOW`, its packet; it returns the whole window, newest first, under every label, and writes nothing. That it
is legal while `Uninitialized` is the spec's own decision D12 (assumption 14). -/
def Obligations.WindowReturnsTheWholeWindow : Prop :=
  encode .window = [0x05000000#32] ∧
  ∀ s : State, exec .window s = .next { s with responses := s.responses ++ [0x00000000#32 :: s.sr] }

/-! ## Side effects and errors -/

/-- R126: the frame of every command: who writes `COEF`, `SR` and `ctrl`, and that nothing else changes but one response
packet more. `TAP`, `WINDOW`, failed commands and illegal packets write nothing. -/
def Obligations.OnlyTheNamedCommandsWrite : Prop :=
  (∀ (s t : State) (p : Packet) (rest : List Packet), s.commands = p :: rest → illegalPacket p → step s = .next t →
    s.SameEngine t) ∧
  ∀ (i : Instr) (s t : State), exec i s = .next t →
    t.taps = s.taps ∧ t.commands = s.commands ∧ (∃ q, t.responses = s.responses ++ [q]) ∧
    ((∀ c, i ≠ .load c) → t.coef = s.coef ∧ ∀ k, memRead .coef k t = memRead .coef k s) ∧
    (i ≠ .reset → (∀ x, i ≠ .process x) → t.sr = s.sr ∧ ∀ k, memRead .sr k t = memRead .sr k s) ∧
    ((∀ c, i ≠ .load c) → (∀ x, i ≠ .process x) → t.ctrl = s.ctrl) ∧
    (∀ kind, t.responses = s.responses ++ [encodeResponse ⟨.error kind, []⟩] → s.SameEngine t)

/-- R144: an error answers its status with no data and changes nothing. -/
def Obligations.ErrorsLeaveTheStateUnchanged : Prop :=
  ∀ (s t : State) (p : Packet) (rest : List Packet) (kind : ErrorKind) (data : List Word),
    s.commands = p :: rest → step s = .next t →
    t.responses = s.responses ++ [encodeResponse ⟨.error kind, data⟩] →
    data = [] ∧ t = { s with commands := rest, responses := s.responses ++ [encodeResponse ⟨.error kind, []⟩] }

/-- R147: after an error every later command is executed as if the failed one had never been sent. This is the spec's
own inference from R144. -/
def Obligations.ErrorsLeaveNoTrace : Prop :=
  ∀ (s u : State) (p : Packet) (ps : List Packet) (kind : ErrorKind), s.Inv →
    step (issueNext p s) = .next u → u.responses = s.responses ++ [encodeResponse ⟨.error kind, []⟩] →
    ∃ t t' answers, runPackets (p :: ps) s = some t ∧ runPackets ps s = some t' ∧ t'.SameEngine t ∧
      t'.responses = s.responses ++ answers ∧
      t.responses = s.responses ++ encodeResponse ⟨.error kind, []⟩ :: answers

/-- R47: a `TAP` or a `WINDOW` can be dropped from any run without changing any other response or the engine. This is
the spec's own inference from R81 and R92. -/
def Obligations.ReadsCanBeDroppedFromAnyRun : Prop :=
  ∀ (s : State) (i : Instr) (before after : List Packet), s.Inv → WellFormed i →
    ((∃ k, i = .tap k) ∨ i = .window) →
    ∃ t t' first second r, runPackets (before ++ encode i :: after) s = some t ∧
      runPackets (before ++ after) s = some t' ∧ t'.SameEngine t ∧ first.length = before.length ∧
      t'.responses = s.responses ++ first ++ second ∧
      t.responses = s.responses ++ first ++ [encodeResponse r] ++ second

/-- R143: once a `LOAD` has succeeded, `NotConfigured` never occurs again in the session. That `TAP` can answer it is
the spec's own decision D12 (assumption 14). -/
def Obligations.NotConfiguredNeverReturns : Prop :=
  ∀ (s : State) (ps : List Packet), s.Inv → s.ctrl ≠ .uninitialized →
    ∃ t answers, runPackets ps s = some t ∧ t.ctrl ≠ .uninitialized ∧ t.responses = s.responses ++ answers ∧
      [0x02000000#32] ∉ answers

/-- R82: a step changes `COEF` only as a whole, and only by a `LOAD` packet of `N` payload words. -/
def Obligations.StoreChangesOnlyAsAWhole : Prop :=
  ∀ s t : State, step s = .next t → t.coef ≠ s.coef →
    ∃ c rest, s.commands = (0x02000000#32 :: c) :: rest ∧ c.length = s.taps ∧ t.coef = some c

/-! ## Shift register -/

/-- R90: a push moves every element up by one position, puts the sample at position 0 and discards the oldest. -/
def Obligations.PushMovesEveryElementByOne : Prop :=
  ∀ (s : State) (x : Word), s.Inv →
    (srPush x s).sr.length = s.taps ∧ (srPush x s).sr[0]? = some x ∧
    (∀ i, i + 1 < s.taps → (srPush x s).sr[i + 1]? = s.sr[i]?) ∧
    (srPush x s).coef = s.coef ∧ (srPush x s).ctrl = s.ctrl

/-- R91: a clear makes all positions zero, is idempotent, and gives the window of a fresh session. -/
def Obligations.ClearGivesTheFreshWindow : Prop :=
  ∀ s : State, (srClear s).sr = (State.resetWith s.taps).sr ∧ (srClear (srClear s)) = srClear s ∧
    (∀ i, i < s.taps → (srClear s).sr[i]? = some 0#32) ∧ (srClear s).coef = s.coef ∧
    (srClear s).ctrl = s.ctrl

/-- R94: the window after a clear and a run of pushes. This is the spec's own inference from R90 and R91. -/
def Obligations.WindowAfterARunOfPushes : Prop :=
  ∀ (s : State) (xs : List Word) (k : Nat), s.Inv → k < s.taps →
    (xs.foldl (fun u x => srPush x u) (srClear s)).sr[k]? =
      some (if k < xs.length then xs.getD (xs.length - 1 - k) 0#32 else 0#32)

/-- R90, corner cases: a push element by element must run from the oldest position down; upward it is wrong. -/
def Obligations.SequentialPushRunsDownward : Prop :=
  (∀ (s : State) (x : Word), s.Inv → pushDownward x s = srPush x s) ∧
  (∃ (s : State) (x : Word), s.Inv ∧ pushUpward x s ≠ srPush x s)

/-- R93: a ring buffer with a rotating head shows the same window after any run of pushes. -/
def Obligations.RingBufferShowsTheSameWindow : Prop :=
  ∀ (r : RingBuffer) (xs : List Word) (n : Nat), r.cells.length = n → r.head < n →
    (xs.foldl (fun q x => q.push x) r).view = xs.foldl (fun w x => shiftIn n x w) r.view ∧
    (xs.foldl (fun q x => q.push x) r).view.length = n

/-- R40, R44: the elements of the two spaces are exactly those of index below `N`. That the store of an `Uninitialized`
engine holds no value, and so has no element to read, is the spec's own decision D8 (R23, R31), in the form of assumption 2. -/
def Obligations.ElementsExistExactlyBelowN : Prop :=
  ∀ (s : State) (k : Nat), s.Inv →
    ((memRead .sr k s).isSome = true ↔ k < s.taps) ∧
    ((memRead .coef k s).isSome = true ↔ s.ctrl ≠ .uninitialized ∧ k < s.taps)

/-! ## Filter core -/

/-- R100: `COMPUTE` on a store that holds `c` and the window, in closed form. That it is a function of these two alone is
R110. R100 only requires that the store hold a value: that there is no result where it holds none is assumption 2, from the
spec's own decision D8 (R23). -/
def Obligations.ComputeIsTheNarrowedDotProduct : Prop :=
  (∀ (s : State) (c : List Word), s.ConfiguredWith c → ∃ y, compute s = some y ∧
    sext32 y = narrow32 (∑ k ∈ Finset.range s.taps, sext32 (c.getD k 0#32) * sext32 (s.sr.getD k 0#32)) ∧
    ((∀ k, k < s.taps → c.getD k 0#32 = 0#32) ∨ (∀ k, k < s.taps → s.sr.getD k 0#32 = 0#32) → y = 0#32)) ∧
  (∀ s t : State, s.coef = t.coef → s.sr = t.sr → compute s = compute t) ∧
  (∀ s : State, s.coef = none → compute s = none)

/-- R101, R102: lane `k` multiplies coefficient `k` by window position `k`, exactly, within the bounds given. The bounds
are the spec's own inference from the operands' ranges. -/
def Obligations.LaneProductsArePairedAndBounded : Prop :=
  (∀ (c w : List Word) (n : Nat), c.length = n → w.length = n →
    (lanes c w).length = n ∧
    ∀ k, k < n → (lanes c w)[k]? = some (sext32 (c.getD k 0#32) * sext32 (w.getD k 0#32))) ∧
  (∀ a b : Word, -4611686016279904256 ≤ sext32 a * sext32 b ∧ sext32 a * sext32 b ≤ 4611686018427387904)

/-- R103: the accumulator is the exact sum, its bounds, and the least width that holds it. Bounds and width are the
spec's own inference from R102. -/
def Obligations.AccumulatorIsExactAndItsWidthIsTheLeast : Prop :=
  (∀ (c w : List Word) (n : Nat), 1 ≤ n → c.length = n → w.length = n →
    accumulate (lanes c w) = ∑ k ∈ Finset.range n, sext32 (c.getD k 0#32) * sext32 (w.getD k 0#32) ∧
    -(n * 4611686016279904256 : Int) ≤ accumulate (lanes c w) ∧
    accumulate (lanes c w) ≤ n * 4611686018427387904 ∧
    -(2 ^ (Config.accWidthExact n - 1) : Int) ≤ accumulate (lanes c w) ∧
    accumulate (lanes c w) < 2 ^ (Config.accWidthExact n - 1)) ∧
  (∀ n : Nat, 1 ≤ n → ∃ c w : List Word, c.length = n ∧ w.length = n ∧
    (2 ^ (Config.accWidthExact n - 2) : Int) ≤ accumulate (lanes c w)) ∧
  Config.accWidthExact 1 = 64 ∧ Config.accWidthExact 2 = 65 ∧ Config.accWidthExact 3 = 65 ∧
  Config.accWidthExact 4 = 66 ∧ Config.accWidthExact 7 = 66 ∧ Config.accWidthExact 99 = 70

/-- R104: the output is the unique 32-bit signed number congruent to the accumulator; nothing is rounded or saturated.
Reading the source's "wraparound" as two's complement is the spec's own decision D7 (assumption 8). -/
def Obligations.NarrowingIsTheUniqueWrappedValue : Prop :=
  ∀ acc : Int,
    sext32 (narrow acc) = (acc + 2147483648) % 4294967296 - 2147483648 ∧
    -2147483648 ≤ sext32 (narrow acc) ∧ sext32 (narrow acc) ≤ 2147483647 ∧
    (4294967296 : Int) ∣ acc - sext32 (narrow acc) ∧
    (∀ out : Int, -2147483648 ≤ out → out ≤ 2147483647 → (4294967296 : Int) ∣ acc - out → out = sext32 (narrow acc)) ∧
    ((narrow acc).toNat : Int) = acc % 4294967296

/-- R106, R107: any accumulator of at least 32 bits, with products formed exactly or wrapped, added in any order and
grouping, gives the engine's output, because narrowing commutes with sums and products; below 32 bits this fails. The
reading of a word of any width as a signed integer is `BitVec.toInt`, so `(BitVec.ofInt A a).toInt` is `narrow_A(a)`.
R106 is the spec's own inference from R14. -/
def Obligations.AccumulatorWidthAndOrderDoNotShow : Prop :=
  (∀ (width n : Nat) (exactly : Bool) (c w : List Word) (t : AdderTree),
    32 ≤ width → c.length = n → w.length = n → t.lanesUsed.Perm (List.range n) →
    t.output width exactly c w = dotProduct c w) ∧
  (∀ (width : Nat) (a b : Int), 32 ≤ width →
    narrow32 ((BitVec.ofInt width a).toInt + (BitVec.ofInt width b).toInt) = narrow32 (a + b) ∧
    narrow32 ((BitVec.ofInt width a).toInt * (BitVec.ofInt width b).toInt) = narrow32 (a * b)) ∧
  (∀ (width : Nat) (exactly : Bool), width < 32 → ∃ c w : List Word, c.length = 1 ∧ w.length = 1 ∧
    (AdderTree.lane 0).output width exactly c w ≠ dotProduct c w)

/-- R109: the products at the extremes and how they narrow. -/
def Obligations.ExtremeProductsNarrowAsListed : Prop :=
  sext32 (narrow (2147483647 * 2147483647)) = 1 ∧
  sext32 (narrow ((-2147483648) * (-2147483648))) = 0 ∧
  sext32 (narrow (2147483647 * (-2147483648))) = -2147483648 ∧
  sext32 (narrow ((-1) * (-2147483648))) = -2147483648 ∧
  sext32 (narrow (46341 * 46341)) = -2147479015 ∧
  sext32 (narrow (46340 * 46340)) = 2147395600

/-- R105: a configured engine answers every sample with `OK` and one word, and nothing but window, label and response
changes, whatever the size of the accumulator; an accumulator out of range is wrapped. -/
def Obligations.OverflowIsNoError : Prop :=
  ∀ (s : State) (c : List Word) (x : Word) (acc : Int), s.ConfiguredWith c →
    acc = ∑ k ∈ Finset.range s.taps, sext32 (c.getD k 0#32) * sext32 ((x :: s.sr).getD k 0#32) →
    ∃ y, exec (.process x) s =
        .next { s with
          sr := x :: s.sr.take (s.taps - 1)
          ctrl := .streaming
          responses := s.responses ++ [[0x00000000#32, y]] } ∧
      sext32 y = narrow32 acc ∧
      (acc < -2147483648 ∨ 2147483647 < acc → ∃ m : Int, m ≠ 0 ∧ sext32 y = acc + m * 4294967296)

/-! ## Streams -/

/-- R124: `PROCESS_STREAM` is its expansion, sample by sample and in order; it fails at the first sample or not at all;
the empty stream is answered in every state; a stream may be split anywhere. The empty stream while `Uninitialized` is
the spec's own decision D17 (assumption 16); all-or-nothing failure and splitting are its inferences. -/
def Obligations.ProcessStreamIsOneProcessPerSample : Prop :=
  ∀ (s : State) (xs : List Word), s.Inv →
    processStream [] s = some (s, ⟨.ok, []⟩) ∧
    (s.ctrl = .uninitialized → xs ≠ [] → processStream xs s =
      some ({ s with responses := s.responses ++ [[0x02000000#32]] }, ⟨.error .notConfigured, []⟩)) ∧
    (s.ctrl ≠ .uninitialized → ∃ t ys, processStream xs s = some (t, ⟨.ok, ys⟩) ∧ ys.length = xs.length ∧
      runPackets ((expandProcessStream xs).map encode) s = some t ∧
      t.responses = s.responses ++ ys.map (fun y => [0x00000000#32, y])) ∧
    (s.ctrl ≠ .uninitialized → ∀ zs, ∃ t u ys ws, processStream xs s = some (t, ⟨.ok, ys⟩) ∧
      processStream zs t = some (u, ⟨.ok, ws⟩) ∧ processStream (xs ++ zs) s = some (u, ⟨.ok, ys ++ ws⟩))

/-- R125: `FILTER`, its failing and its successful case, with the engine it leaves; outputs and engine are the same
whatever the engine held before ("stateless"; R164). That a failed `LOAD` ends it with the engine unchanged is the
spec's own decision D22 (assumption 16), the engine it leaves its inference. -/
def Obligations.FilterLoadsResetsAndStreams : Prop :=
  ∀ (s : State) (c xs : List Word), s.Inv →
    (c.length ≠ s.taps → filter c xs s =
      some ({ s with responses := s.responses ++ [[0x01000000#32]] }, ⟨.error .coefficientLengthMismatch, []⟩)) ∧
    (c.length = s.taps → ∃ t ys, filter c xs s = some (t, ⟨.ok, ys⟩) ∧ ys.length = xs.length ∧
      runPackets ((expandFilter c xs).map encode) s = some t ∧
      t.taps = s.taps ∧ t.coef = some c ∧
      t.sr = (xs.reverse ++ List.replicate s.taps 0#32).take s.taps ∧
      (t.ctrl = if xs = [] then .coefficientsLoaded else .streaming) ∧
      ∀ other : State, other.Inv → other.taps = s.taps →
        ∃ u, filter c xs other = some (u, ⟨.ok, ys⟩) ∧ u.SameEngine t)

/-- R127: the causal convolution law of a `FILTER`, and its general form for a stream from any window. The second clause
is the spec's own inference. -/
def Obligations.CausalConvolutionLaw : Prop :=
  (∀ (s : State) (c xs : List Word), s.Inv → c.length = s.taps →
    ∃ t ys, filter c xs s = some (t, ⟨.ok, ys⟩) ∧ ys.length = xs.length ∧
      ∀ i, i < xs.length → sext32 (ys.getD i 0#32) =
        narrow32 (∑ k ∈ Finset.range (min i (s.taps - 1) + 1),
          sext32 (c.getD k 0#32) * sext32 (xs.getD (i - k) 0#32))) ∧
  (∀ (s : State) (c xs : List Word), s.ConfiguredWith c →
    ∃ t ys, processStream xs s = some (t, ⟨.ok, ys⟩) ∧ ys.length = xs.length ∧
      ∀ i, i < xs.length → sext32 (ys.getD i 0#32) =
        narrow32 (∑ k ∈ Finset.range s.taps, sext32 (c.getD k 0#32) *
          sext32 (if k ≤ i then xs.getD (i - k) 0#32 else s.sr.getD (k - i - 1) 0#32)))

/-- R128: `RESET` and a replay of the same samples give the same outputs, whatever commands but `LOAD` came before. -/
def Obligations.ResetAndReplayGivesTheSameOutputs : Prop :=
  ∀ (s : State) (c xs : List Word) (commands : List Instr), s.ConfiguredWith c →
    streamKeepsCoefficients commands = true →
    ∃ u s1 u1 t t1 ys, runPackets (commands.map encode) s = some u ∧
      call .reset s = some (s1, ⟨.ok, []⟩) ∧ processStream xs s1 = some (t, ⟨.ok, ys⟩) ∧
      call .reset u = some (u1, ⟨.ok, []⟩) ∧ processStream xs u1 = some (t1, ⟨.ok, ys⟩)

/-- R129: the zero-length boundary. -/
def Obligations.EmptyStreamGivesNoOutput : Prop :=
  ∀ (s : State) (c : List Word),
    processStream [] s = some (s, ⟨.ok, []⟩) ∧
    (c.length = s.taps → ∃ t, filter c [] s = some (t, ⟨.ok, []⟩) ∧ t.coef = some c ∧
      t.sr = List.replicate s.taps 0#32 ∧ t.ctrl = .coefficientsLoaded)

/-- R130: output `i` involves only coefficients `0` to `i`, for streams of any length, shorter than `N` too; the first output
after a clear is already `narrow_32(C[0] * S[0])`. -/
def Obligations.ShortStreamsUseOnlyTheFirstCoefficients : Prop :=
  ∀ (s : State) (c c' xs : List Word), s.Inv → c.length = s.taps → c'.length = s.taps →
    ∃ t t' ys ys', filter c xs s = some (t, ⟨.ok, ys⟩) ∧ filter c' xs s = some (t', ⟨.ok, ys'⟩) ∧
      ys.length = xs.length ∧ ys'.length = xs.length ∧
      (∀ i, i < xs.length → (∀ k, k ≤ i → c.getD k 0#32 = c'.getD k 0#32) → ys[i]? = ys'[i]?) ∧
      (xs ≠ [] → sext32 (ys.getD 0 0#32) = narrow32 (sext32 (c.getD 0 0#32) * sext32 (xs.getD 0 0#32)))

/-- R131: additivity with wraparound on both sides, the exact form where the sums of outputs are in range, and
homogeneity. The forms with wraparound are the spec's own inference from R127 and R106. -/
def Obligations.FilterIsLinear : Prop :=
  ∀ (s : State) (c xs zs : List Word) (a : Int), s.Inv → c.length = s.taps → xs.length = zs.length →
    ∃ t1 t2 t3 t4 ys ws us, filter c xs s = some (t1, ⟨.ok, ys⟩) ∧ filter c zs s = some (t2, ⟨.ok, ws⟩) ∧
      filter c (List.zipWith (fun x z => word32 (sext32 x + sext32 z)) xs zs) s = some (t3, ⟨.ok, us⟩) ∧
      us = List.zipWith (fun y w => word32 (sext32 y + sext32 w)) ys ws ∧
      (∀ i, i < xs.length → -2147483648 ≤ sext32 (ys.getD i 0#32) + sext32 (ws.getD i 0#32) →
        sext32 (ys.getD i 0#32) + sext32 (ws.getD i 0#32) ≤ 2147483647 →
        sext32 (us.getD i 0#32) = sext32 (ys.getD i 0#32) + sext32 (ws.getD i 0#32)) ∧
      filter c (xs.map fun x => word32 (a * sext32 x)) s =
        some (t4, ⟨.ok, ys.map fun y => word32 (a * sext32 y)⟩)

/-- R132: zero input gives zero output after a clear; from any window the outputs are zero from the `N`-th zero sample
on; an all-zero store gives zeros only. The second clause is the spec's own inference from R127. -/
def Obligations.ZeroInputGivesZeroOutput : Prop :=
  (∀ (s : State) (c : List Word) (len : Nat), s.Inv → c.length = s.taps →
    ∃ t, filter c (List.replicate len 0#32) s = some (t, ⟨.ok, List.replicate len 0#32⟩)) ∧
  (∀ (s : State) (c : List Word) (len : Nat), s.ConfiguredWith c →
    ∃ t ys, processStream (List.replicate len 0#32) s = some (t, ⟨.ok, ys⟩) ∧ ys.length = len ∧
      ∀ i, s.taps - 1 ≤ i → i < len → ys[i]? = some 0#32) ∧
  (∀ (s : State) (xs : List Word), s.ConfiguredWith (List.replicate s.taps 0#32) →
    ∃ t, processStream xs s = some (t, ⟨.ok, List.replicate xs.length 0#32⟩))

/-- R133: the impulse response is the coefficient vector in index order; the step response is its running sums. The
general forms are the spec's own inference from R127. -/
def Obligations.ImpulseAndStepResponses : Prop :=
  (∀ (s : State) (c : List Word) (len : Nat), s.Inv → c.length = s.taps →
    ∃ t ys, filter c (1#32 :: List.replicate len 0#32) s = some (t, ⟨.ok, ys⟩) ∧ ys.length = len + 1 ∧
      ∀ i, i ≤ len → ys[i]? = some (if i < s.taps then c.getD i 0#32 else 0#32)) ∧
  (∀ (s : State) (c : List Word) (len : Nat), s.Inv → c.length = s.taps →
    ∃ t ys, filter c (List.replicate len 1#32) s = some (t, ⟨.ok, ys⟩) ∧ ys.length = len ∧
      ∀ i, i < len → sext32 (ys.getD i 0#32) =
        narrow32 (∑ k ∈ Finset.range (min i (s.taps - 1) + 1), sext32 (c.getD k 0#32)))

/-- R134: two states that differ only in `Streaming` against `CoefficientsLoaded` answer every run of packets alike and
stay so related. This is the spec's own inference from R120. -/
def Obligations.StreamingAndLoadedAreIndistinguishable : Prop :=
  ∀ (s t : State) (ps : List Packet), s.Inv → t.Inv → s.SameUpToLabel t →
    ∃ s' t' answers, runPackets ps s = some s' ∧ runPackets ps t = some t' ∧ s'.SameUpToLabel t' ∧
      s'.responses = s.responses ++ answers ∧ t'.responses = t.responses ++ answers

/-- R50, R170: the command right after a `LOAD` already sees the new vector, and the old window. R50 is the spec's own
inference (D2). -/
def Obligations.LoadIsSeenByTheNextCommands : Prop :=
  ∀ (s : State) (c : List Word) (k : Nat) (x : Word), s.Inv → c.length = s.taps → k < s.taps →
    ∃ t y, runPackets [encode (.load c), encode (.tap k), encode (.process x)] s = some t ∧
      t.responses = s.responses ++ [[0x00000000#32], [0x00000000#32, c.getD k 0#32], [0x00000000#32, y]] ∧
      sext32 y = narrow32 (∑ j ∈ Finset.range s.taps,
        sext32 (c.getD j 0#32) * sext32 ((x :: s.sr).getD j 0#32))

/-- R168, R121 corner case (d): after a failed re-`LOAD` the engine computes with the earlier vector and answers `OK`. That a
failed `LOAD` changes nothing is the spec's own decision D11 (assumption 13). -/
def Obligations.FailedReloadKeepsTheEarlierVector : Prop :=
  ∀ (s : State) (c bad : List Word) (x : Word), s.ConfiguredWith c → bad.length ≠ s.taps →
    ∃ t u y, exec (.process x) s = .next u ∧ u.responses = s.responses ++ [[0x00000000#32, y]] ∧
      runPackets [encode (.load bad), encode (.process x)] s = some t ∧
      t.responses = s.responses ++ [[0x01000000#32], [0x00000000#32, y]] ∧ u.SameEngine t

/-- R163: `LOAD` and `RESET` between two streams may come in either order. This is the spec's own inference from R126.
-/
def Obligations.LoadAndResetCommute : Prop :=
  ∀ (s : State) (c : List Word),
    ∃ t u, runPackets [encode (.load c), encode .reset] s = some t ∧
      runPackets [encode .reset, encode (.load c)] s = some u ∧ t.SameEngine u

/-! ## Reset, invariant, reachability, several engines -/

/-- R31, R6: the state at the start of a session, for every `N`, and that the reference design has 99 taps. That both
interface lists start empty is the model's choice (assumptions 3 and 4). That `COEF` starts without a value is the
spec's own decision D8 (assumption 2). -/
def Obligations.SessionStartsInTheResetState : Prop :=
  (∀ n : Nat, Config.minTaps ≤ n → n ≤ Config.maxTaps →
    (State.resetWith n).Inv ∧ (State.resetWith n).taps = n ∧
    (State.resetWith n).sr.length = n ∧ (∀ i, i < n → (State.resetWith n).sr[i]? = some 0#32) ∧
    (State.resetWith n).ctrl = .uninitialized ∧ (State.resetWith n).coef = none) ∧
  State.reset = State.resetWith 99 ∧ Sys2Proof.core.reset = State.reset ∧ State.reset.Inv

/-- R26, R32: the invariant (`Uninitialized` exactly when the store holds no value, and all lengths `N`) holds at reset
for every `N`, and every step keeps it, from every state that meets it; no step changes `N` (R5, R6). R26 is the spec's
own inference. -/
def Obligations.EveryStepKeepsTheInvariant : Prop :=
  (∀ s t : State, s.Inv → step s = .next t → t.Inv ∧ t.taps = s.taps) ∧
  (∀ n : Nat, Config.minTaps ≤ n → n ≤ Config.maxTaps → (State.resetWith n).Inv)

/-- R70, end of `93_implementation_defined.md` part 1: no engine that a run reaches ever stops, whatever packets it gets. -/
def Obligations.ReachableEnginesNeverStop : Prop :=
  ∀ s : State, s.Reachable → s.Inv ∧ ∃ t, step s = .next t ∧ t.Reachable

/-- The model's one fault is met only outside the invariant (assumption 10): the meanings stop exactly where the store
lacks the element a configured engine reads. -/
def Obligations.FaultOnlyWithoutTheStoredElement : Prop :=
  ∀ (i : Instr) (s : State),
    (exec i s = .fault .coefficientAbsent ↔
      s.ctrl ≠ .uninitialized ∧
        ((∃ x, i = .process x) ∧ s.coef = none ∨ ∃ k, i = .tap k ∧ k < s.taps ∧ memRead .coef k s = none)) ∧
    (∀ r, exec i s ≠ .refused r)

/-- R161: the command `RESET` and the reset event agree on `SR`; the command keeps `COEF` and the label, where the event
leaves the state at the start of a session; no run of packets returns a configured engine to `Uninitialized`. The effect of the
event on a running state, `resetEvent`, is R160 with the spec's own decision D16 (assumption 15). -/
def Obligations.ResetCommandIsNotTheResetEvent : Prop :=
  (∀ s : State, ∃ t, exec .reset s = .next t ∧ t.sr = (resetEvent s).sr ∧ t.coef = s.coef ∧ t.ctrl = s.ctrl ∧
    (resetEvent s).coef = none ∧ (resetEvent s).ctrl = .uninitialized ∧
    (resetEvent s).SameEngine (State.resetWith s.taps)) ∧
  (∀ (s : State) (ps : List Packet), s.Inv → s.ctrl ≠ .uninitialized →
    ∃ t, runPackets ps s = some t ∧ t.ctrl ≠ .uninitialized ∧ t.coef ≠ none)

/-- R25, D9: the labels have the three patterns 0, 1 and 2; 3 never occurs. The patterns are the spec's own decision D9
(assumption 22). -/
def Obligations.LabelPatternsAreDistinct : Prop :=
  Ctrl.bits .uninitialized = 0#2 ∧ Ctrl.bits .coefficientsLoaded = 1#2 ∧ Ctrl.bits .streaming = 2#2 ∧
  (∀ label : Ctrl, label.bits ≠ 3#2) ∧ (∀ l l' : Ctrl, l.bits = l'.bits → l = l')

/-- R52: a step of one engine leaves every other engine alone, and steps of two engines commute. -/
def Obligations.SessionsDoNotInterfere : Prop :=
  ∀ (engines : Sessions) (i j : Nat), i ≠ j →
    (∀ after, stepSession i engines = some after → after[j]? = engines[j]? ∧ after.length = engines.length) ∧
    (stepSession i engines).bind (stepSession j) = (stepSession j engines).bind (stepSession i)
end

