-- ==== Sys2Proof/Laws/Decode.lean ====
section
/-!
SUPPORT. What the decoder does behind a header word, and what a header word is made of (`30_encoding.md` R62, R63).
-/

namespace Sys2Proof

/-- The opcode or status byte of a word whose low 24 bits are zero. -/
theorem headerOp_append (b : BitVec 8) : headerOp (b ++ 0#24) = b := by
  apply BitVec.eq_of_toNat_eq
  have := b.isLt
  simp only [headerOp, BitVec.toNat_append, BitVec.extractLsb'_toNat, BitVec.toNat_ofNat, Nat.zero_mod, Nat.or_zero,
    Nat.shiftLeft_eq, Nat.shiftRight_eq_div_pow]
  omega

/-- The reserved field of such a word. -/
theorem headerRsv_append (b : BitVec 8) : headerRsv (b ++ 0#24) = 0#24 := by
  apply BitVec.eq_of_toNat_eq
  simp only [headerRsv, BitVec.toNat_append, BitVec.extractLsb'_toNat, BitVec.toNat_ofNat, Nat.zero_mod, Nat.or_zero,
    Nat.shiftLeft_eq, Nat.shiftRight_zero]
  omega

@[simp] theorem headerOp_headerWord (op : Opcode) : headerOp (headerWord op) = op.byte := by
  cases op <;> decide

@[simp] theorem headerRsv_headerWord (op : Opcode) : headerRsv (headerWord op) = 0#24 := by
  cases op <;> decide

@[simp] theorem opcodeOfByte_byte (op : Opcode) : opcodeOfByte op.byte = some op := by
  cases op <;> decide

/-- Only the five assigned bytes are opcodes. -/
theorem opcodeOfByte_eq_some_iff (b : BitVec 8) (op : Opcode) : opcodeOfByte b = some op ↔ b = op.byte := by
  constructor
  · intro h
    unfold opcodeOfByte at h
    split_ifs at h <;> cases h <;> assumption
  · rintro rfl
    exact opcodeOfByte_byte op

/-- A header word is its two fields. -/
theorem header_eq_iff (h : Word) (op : Opcode) : h = headerWord op ↔ headerOp h = op.byte ∧ headerRsv h = 0#24 := by
  constructor
  · rintro rfl
    simp
  · rintro ⟨hop, hrsv⟩
    have split : h = headerOp h ++ headerRsv h := by
      apply BitVec.eq_of_toNat_eq
      have := h.isLt
      simp only [headerOp, headerRsv, BitVec.toNat_append, BitVec.extractLsb'_toNat, Nat.shiftRight_zero]
      rw [← Nat.shiftLeft_add_eq_or_of_lt (Nat.mod_lt _ (by norm_num)), Nat.shiftLeft_eq, Nat.shiftRight_eq_div_pow]
      omega
    rw [split, hop, hrsv, headerWord]

/-- The header words as numbers. -/
theorem headerWord_value (op : Opcode) :
    headerWord op = match op with
      | .reset => 0x01000000#32
      | .load => 0x02000000#32
      | .process => 0x03000000#32
      | .tap => 0x04000000#32
      | .window => 0x05000000#32 := by
  cases op <;> decide

theorem encode_reset : encode .reset = [0x01000000#32] := by
  simp only [encode, Instr.opcode, Instr.payload, headerWord_value]

theorem encode_load (c : List Word) : encode (.load c) = 0x02000000#32 :: c := by
  simp only [encode, Instr.opcode, Instr.payload, headerWord_value]

theorem encode_process (x : Word) : encode (.process x) = [0x03000000#32, x] := by
  simp only [encode, Instr.opcode, Instr.payload, headerWord_value]

theorem encode_tap (w : Word) : encode (.tap w.toNat) = [0x04000000#32, w] := by
  simp only [encode, Instr.opcode, Instr.payload, headerWord_value, BitVec.ofNat_toNat, BitVec.setWidth_eq]

theorem encode_window : encode .window = [0x05000000#32] := by
  simp only [encode, Instr.opcode, Instr.payload, headerWord_value]

/-- The decoder behind the header word of an opcode. -/
@[simp] theorem decode_headerWord (op : Opcode) (payload : List Word) :
    decode (headerWord op :: payload) = decodePayload op payload := by
  simp [decode]

/-- Whatever decodes starts with the header word of an opcode. -/
theorem decode_ok_header {p : Packet} {i : Instr} (h : decode p = .ok i) :
    ∃ op payload, p = headerWord op :: payload ∧ decodePayload op payload = .ok i := by
  cases p with
  | nil => cases h
  | cons w payload =>
    rw [decode] at h
    split at h
    · cases h
    · rename_i hrsv
      cases hop : opcodeOfByte (headerOp w) with
      | none => rw [hop] at h; cases h
      | some op =>
        rw [hop] at h
        refine ⟨op, payload, ?_, h⟩
        rw [(header_eq_iff w op).2 ⟨(opcodeOfByte_eq_some_iff _ _).1 hop, by simpa using hrsv⟩]

/-- The payloads that decode, by opcode. -/
theorem decodePayload_ok {op : Opcode} {payload : List Word} {i : Instr} (h : decodePayload op payload = .ok i) :
    (op = .reset ∧ payload = [] ∧ i = .reset) ∨
    (op = .load ∧ i = .load payload) ∨
    (∃ x, op = .process ∧ payload = [x] ∧ i = .process x) ∨
    (∃ w, op = .tap ∧ payload = [w] ∧ i = .tap (zext32 w)) ∨
    (op = .window ∧ payload = [] ∧ i = .window) := by
  unfold decodePayload at h
  split at h <;> cases h <;> simp

end Sys2Proof
end

