-- ==== Sys2Proof/Laws/Operands.lean ====
section
/-!
SUPPORT. The conversions of `00_scope.md` R14 in terms of Lean's own readings of a bit vector, and the response packet read
back (`30_encoding.md` R65).
-/

namespace Sys2Proof.Machine

/-- The signed reading is Lean's `toInt`. -/
theorem sext32_eq_toInt (w : Word) : sext32 w = w.toInt := by
  unfold sext32
  rw [BitVec.toInt_eq_toNat_cond]
  split <;> split <;> omega

theorem sext32_lower (w : Word) : -2147483648 ≤ sext32 w := by
  have := w.isLt
  unfold sext32
  split <;> omega

theorem sext32_upper (w : Word) : sext32 w ≤ 2147483647 := by
  have := w.isLt
  unfold sext32
  split <;> omega

@[simp] theorem sext32_zero : sext32 0#32 = 0 := by decide

/-- A word carries its own signed value. -/
@[simp] theorem word32_sext32 (w : Word) : word32 (sext32 w) = w := by
  rw [sext32_eq_toInt, word32, BitVec.ofInt_toInt]

/-- The signed value of the word that carries an integer. -/
theorem sext32_word32 (v : Int) : sext32 (word32 v) = narrow32 v := rfl

/-- `narrow_32` is the balanced remainder. -/
theorem narrow32_eq_bmod (a : Int) : narrow32 a = a.bmod 4294967296 := by
  rw [narrow32, sext32_eq_toInt, word32]
  exact BitVec.toInt_ofInt a

/-- Two integers are carried by one word exactly when they agree modulo `2^32`. -/
theorem word32_eq_iff (a b : Int) : word32 a = word32 b ↔ a % 4294967296 = b % 4294967296 := by
  have val (v : Int) : ((word32 v).toNat : Int) = v % 4294967296 := by
    rw [word32, BitVec.toNat_ofInt, Int.toNat_of_nonneg (Int.emod_nonneg v (by norm_num))]
    norm_num
  constructor
  · intro h
    rw [← val a, ← val b, h]
  · intro h
    apply BitVec.eq_of_toNat_eq
    exact_mod_cast (val a).trans (h.trans (val b).symm)

theorem word32_add (a b : Int) : word32 (a + b) = word32 a + word32 b := BitVec.ofInt_add ..

theorem word32_mul (a b : Int) : word32 (a * b) = word32 a * word32 b := BitVec.ofInt_mul ..

@[simp] theorem word32_narrow32 (a : Int) : word32 (narrow32 a) = word32 a := word32_sext32 _

@[simp] theorem statusOfCode_code (status : Status) : statusOfCode status.code = some status := by
  rcases status with _ | kind
  · decide
  · cases kind <;> decide

/-- The host reads back the response the engine gave. -/
@[simp] theorem decodeResponse_encodeResponse (r : Response) : decodeResponse (encodeResponse r) = some r := by
  simp only [encodeResponse, decodeResponse, headerRsv_append, headerOp_append, statusOfCode_code]
  rfl

/-- The header word of a response packet, by status (R67). -/
theorem status_header (status : Status) :
    status.code ++ 0#24 =
      match status with
      | .ok => 0x00000000#32
      | .error .coefficientLengthMismatch => 0x01000000#32
      | .error .notConfigured => 0x02000000#32
      | .error .indexOutOfRange => 0x03000000#32
      | .error .illegalCommand => 0x04000000#32 := by
  rcases status with _ | kind
  · decide
  · cases kind <;> decide

/-- A response with status `OK` as packet words. -/
theorem encodeResponse_ok (data : List Word) : encodeResponse ⟨.ok, data⟩ = 0x00000000#32 :: data :=
  congrArg (· :: data) (status_header .ok)

/-- Different responses are different packets. -/
theorem encodeResponse_injective {r r' : Response} (h : encodeResponse r = encodeResponse r') : r = r' := by
  have := congrArg decodeResponse h
  simpa using this

end Sys2Proof.Machine
end

