-- ==== Sys2Proof/Laws/FilterCore.lean ====
section
/-!
SUPPORT. The three stages of `COMPUTE` in closed form (`42_filter_core.md` R102 to R104).
-/

namespace Sys2Proof.Machine

/-- The accumulator is the sum of the products. -/
theorem accumulate_eq_sum (products : List Int) : accumulate products = products.sum := by
  rw [accumulate, List.sum_eq_foldl]

@[simp] theorem lanes_nil_left (w : List Word) : lanes [] w = [] := rfl
@[simp] theorem lanes_nil_right (c : List Word) : lanes c [] = [] := by cases c <;> rfl
@[simp] theorem lanes_cons (a : Word) (c : List Word) (x : Word) (w : List Word) :
    lanes (a :: c) (x :: w) = (sext32 a * sext32 x) :: lanes c w := rfl

/-- The narrowing keeps the low word and nothing else. -/
theorem narrow_eq_word32 (acc : Int) : narrow acc = word32 acc := word32_narrow32 acc

/-- The signed value of a narrowed sum. -/
theorem sext32_narrow (acc : Int) : sext32 (narrow acc) = narrow32 acc := by
  rw [narrow_eq_word32, sext32_word32]

/-- The sum over the lanes as a sum over the lane numbers. -/
theorem lanes_sum_range (c w : List Word) (n : Nat) (hc : c.length = n) (hw : w.length = n) :
    (lanes c w).sum = ∑ k ∈ Finset.range n, sext32 (c.getD k 0#32) * sext32 (w.getD k 0#32) := by
  induction c generalizing w n with
  | nil => subst hc; rfl
  | cons a c ih =>
    cases w with
    | nil => simp only [List.length_nil, List.length_cons] at hw hc; omega
    | cons x w =>
      cases n with
      | zero => simp at hc
      | succ n =>
        rw [Finset.sum_range_succ', lanes_cons, List.sum_cons, ih w n (by simpa using hc) (by simpa using hw)]
        simp [add_comm]

/-- The output word, for a store and a window of `n` elements. -/
theorem dotProduct_eq_range (c w : List Word) (n : Nat) (hc : c.length = n) (hw : w.length = n) :
    dotProduct c w = word32 (∑ k ∈ Finset.range n, sext32 (c.getD k 0#32) * sext32 (w.getD k 0#32)) := by
  rw [dotProduct, narrow_eq_word32, accumulate_eq_sum, lanes_sum_range c w n hc hw]

end Sys2Proof.Machine
end

