-- ==== Sys2Proof/Laws/State.lean ====
section
/-!
SUPPORT. One lemma per field per update of State, so that no later proof unfolds a record update.
-/

namespace Sys2Proof.Machine

section Fields
variable (s : State) (c w : List Word) (label : Ctrl) (r : Response) (p : Packet) (x : Word)

@[simp] theorem setCoef_taps : (s.setCoef c).taps = s.taps := rfl
@[simp] theorem setCoef_coef : (s.setCoef c).coef = some c := rfl
@[simp] theorem setCoef_sr : (s.setCoef c).sr = s.sr := rfl
@[simp] theorem setCoef_ctrl : (s.setCoef c).ctrl = s.ctrl := rfl
@[simp] theorem setCoef_commands : (s.setCoef c).commands = s.commands := rfl
@[simp] theorem setCoef_responses : (s.setCoef c).responses = s.responses := rfl

@[simp] theorem setSr_taps : (s.setSr w).taps = s.taps := rfl
@[simp] theorem setSr_coef : (s.setSr w).coef = s.coef := rfl
@[simp] theorem setSr_sr : (s.setSr w).sr = w := rfl
@[simp] theorem setSr_ctrl : (s.setSr w).ctrl = s.ctrl := rfl
@[simp] theorem setSr_commands : (s.setSr w).commands = s.commands := rfl
@[simp] theorem setSr_responses : (s.setSr w).responses = s.responses := rfl

@[simp] theorem setCtrl_taps : (s.setCtrl label).taps = s.taps := rfl
@[simp] theorem setCtrl_coef : (s.setCtrl label).coef = s.coef := rfl
@[simp] theorem setCtrl_sr : (s.setCtrl label).sr = s.sr := rfl
@[simp] theorem setCtrl_ctrl : (s.setCtrl label).ctrl = label := rfl
@[simp] theorem setCtrl_commands : (s.setCtrl label).commands = s.commands := rfl
@[simp] theorem setCtrl_responses : (s.setCtrl label).responses = s.responses := rfl

@[simp] theorem answer_taps : (answer r s).taps = s.taps := rfl
@[simp] theorem answer_coef : (answer r s).coef = s.coef := rfl
@[simp] theorem answer_sr : (answer r s).sr = s.sr := rfl
@[simp] theorem answer_ctrl : (answer r s).ctrl = s.ctrl := rfl
@[simp] theorem answer_commands : (answer r s).commands = s.commands := rfl
@[simp] theorem answer_responses : (answer r s).responses = s.responses ++ [encodeResponse r] := rfl

@[simp] theorem issueNext_taps : (issueNext p s).taps = s.taps := rfl
@[simp] theorem issueNext_coef : (issueNext p s).coef = s.coef := rfl
@[simp] theorem issueNext_sr : (issueNext p s).sr = s.sr := rfl
@[simp] theorem issueNext_ctrl : (issueNext p s).ctrl = s.ctrl := rfl
@[simp] theorem issueNext_commands : (issueNext p s).commands = p :: s.commands := rfl
@[simp] theorem issueNext_responses : (issueNext p s).responses = s.responses := rfl

@[simp] theorem srPush_taps : (srPush x s).taps = s.taps := rfl
@[simp] theorem srPush_coef : (srPush x s).coef = s.coef := rfl
@[simp] theorem srPush_sr : (srPush x s).sr = shiftIn s.taps x s.sr := rfl
@[simp] theorem srPush_ctrl : (srPush x s).ctrl = s.ctrl := rfl
@[simp] theorem srPush_commands : (srPush x s).commands = s.commands := rfl
@[simp] theorem srPush_responses : (srPush x s).responses = s.responses := rfl

@[simp] theorem srClear_taps : (srClear s).taps = s.taps := rfl
@[simp] theorem srClear_coef : (srClear s).coef = s.coef := rfl
@[simp] theorem srClear_sr : (srClear s).sr = List.replicate s.taps 0#32 := rfl
@[simp] theorem srClear_ctrl : (srClear s).ctrl = s.ctrl := rfl
@[simp] theorem srClear_commands : (srClear s).commands = s.commands := rfl
@[simp] theorem srClear_responses : (srClear s).responses = s.responses := rfl

@[simp] theorem resetEvent_taps : (resetEvent s).taps = s.taps := rfl
@[simp] theorem resetEvent_coef : (resetEvent s).coef = none := rfl
@[simp] theorem resetEvent_sr : (resetEvent s).sr = List.replicate s.taps 0#32 := rfl
@[simp] theorem resetEvent_ctrl : (resetEvent s).ctrl = .uninitialized := rfl
@[simp] theorem resetEvent_commands : (resetEvent s).commands = s.commands := rfl
@[simp] theorem resetEvent_responses : (resetEvent s).responses = s.responses := rfl

@[simp] theorem resetWith_taps (n : Nat) : (State.resetWith n).taps = n := rfl
@[simp] theorem resetWith_coef (n : Nat) : (State.resetWith n).coef = none := rfl
@[simp] theorem resetWith_sr (n : Nat) : (State.resetWith n).sr = List.replicate n 0#32 := rfl
@[simp] theorem resetWith_ctrl (n : Nat) : (State.resetWith n).ctrl = .uninitialized := rfl
@[simp] theorem resetWith_commands (n : Nat) : (State.resetWith n).commands = [] := rfl
@[simp] theorem resetWith_responses (n : Nat) : (State.resetWith n).responses = [] := rfl

@[simp] theorem memWrite_taps (space : Space) (i : Nat) : (memWrite space i x s).taps = s.taps := by cases space <;> rfl
@[simp] theorem memWrite_ctrl (space : Space) (i : Nat) : (memWrite space i x s).ctrl = s.ctrl := by cases space <;> rfl
@[simp] theorem memWrite_commands (space : Space) (i : Nat) : (memWrite space i x s).commands = s.commands := by
  cases space <;> rfl
@[simp] theorem memWrite_responses (space : Space) (i : Nat) : (memWrite space i x s).responses = s.responses := by
  cases space <;> rfl
/-- Where `COEF` holds no value, a write to it changes nothing (assumption 26). -/
theorem memWrite_coef_absent (i : Nat) (h : s.coef = none) : memWrite .coef i x s = s := by
  cases s
  cases h
  rfl

/-- A write at or past the end of the window changes nothing (assumption 26). -/
theorem memWrite_sr_outside (i : Nat) (h : s.sr.length ≤ i) : memWrite .sr i x s = s := by
  simp [memWrite, List.set_eq_of_length_le h]

@[simp] theorem memWrite_sr_sr (i : Nat) : (memWrite .sr i x s).sr = s.sr.set i x := rfl
@[simp] theorem memWrite_sr_coef (i : Nat) : (memWrite .sr i x s).coef = s.coef := rfl
@[simp] theorem memWrite_coef_sr (i : Nat) : (memWrite .coef i x s).sr = s.sr := rfl

end Fields

end Sys2Proof.Machine
end

