-- ==== Sys2Proof/Laws/Exec.lean ====
section
/-!
SUPPORT. One lemma per meaning that says once everything it can do; one for `exec` and one for `step`. Later proofs cite
these and never unfold the meanings.
-/

namespace Sys2Proof.Machine

/-! ## Shared operations -/

theorem respond_eq_next_iff {data : List Word} {s t : State} : respond data s = .next t ↔ t = answer ⟨.ok, data⟩ s := by
  simp [respond, eq_comm]

theorem raise_eq_next_iff {kind : ErrorKind} {s t : State} : raise kind s = .next t ↔ t = answer ⟨.error kind, []⟩ s := by
  simp [raise, eq_comm]

/-- `COEF_WRITE` either fails and gives no state, or replaces the store. -/
theorem coefWrite_eq (c : List Word) (s : State) :
    (c.length ≠ s.taps ∧ coefWrite c s = .error .coefficientLengthMismatch) ∨
    (c.length = s.taps ∧ coefWrite c s = .ok (s.setCoef c)) := by
  by_cases h : c.length = s.taps <;> simp [coefWrite, h]

/-! ## The meanings -/

theorem execReset_eq (s : State) : execReset s = .next (answer ⟨.ok, []⟩ (srClear s)) := rfl

theorem execWindow_eq (s : State) : execWindow s = .next (answer ⟨.ok, s.sr⟩ s) := rfl

theorem execLoad_ok {c : List Word} {s : State} (h : c.length = s.taps) :
    execLoad c s = .next (answer ⟨.ok, []⟩ ((s.setCoef c).setCtrl .coefficientsLoaded)) := by
  simp [execLoad, coefWrite, h, respond]

theorem execLoad_mismatch {c : List Word} {s : State} (h : c.length ≠ s.taps) :
    execLoad c s = .next (answer ⟨.error .coefficientLengthMismatch, []⟩ s) := by
  simp [execLoad, coefWrite, h, raise]

theorem execProcess_unconfigured {x : Word} {s : State} (h : s.ctrl = .uninitialized) :
    execProcess x s = .next (answer ⟨.error .notConfigured, []⟩ s) := by
  simp [execProcess, h, raise]

theorem execProcess_configured {x : Word} {s : State} {c : List Word} (h : s.ctrl ≠ .uninitialized)
    (hc : s.coef = some c) :
    execProcess x s =
      .next (answer ⟨.ok, [dotProduct c (shiftIn s.taps x s.sr)]⟩ ((srPush x s).setCtrl .streaming)) := by
  simp [execProcess, h, compute, hc, respond]

theorem execProcess_absent {x : Word} {s : State} (h : s.ctrl ≠ .uninitialized) (hc : s.coef = none) :
    execProcess x s = .fault .coefficientAbsent := by
  simp [execProcess, h, compute, hc]

theorem execTap_unconfigured {i : Nat} {s : State} (h : s.ctrl = .uninitialized) :
    execTap i s = .next (answer ⟨.error .notConfigured, []⟩ s) := by
  simp [execTap, h, raise]

theorem execTap_out_of_range {i : Nat} {s : State} (h : s.ctrl ≠ .uninitialized) (hi : s.taps ≤ i) :
    execTap i s = .next (answer ⟨.error .indexOutOfRange, []⟩ s) := by
  simp [execTap, h, hi, raise]

theorem execTap_in_range {i : Nat} {s : State} {store : List Word} {v : Word} (h : s.ctrl ≠ .uninitialized)
    (hi : i < s.taps) (hc : s.coef = some store) (hv : store[i]? = some v) : execTap i s = .next (answer ⟨.ok, [v]⟩ s) := by
  simp [execTap, h, Nat.not_le.2 hi, memRead, hc, hv, respond]

/-! ## exec: everything a command can do -/

/-- If a command answers a next state, it is one of these (R141). -/
theorem exec_next_cases {i : Instr} {s t : State} (h : exec i s = .next t) :
    (i = .reset ∧ t = answer ⟨.ok, []⟩ (srClear s)) ∨
    (∃ c, i = .load c ∧ c.length = s.taps ∧
      t = answer ⟨.ok, []⟩ ((s.setCoef c).setCtrl .coefficientsLoaded)) ∨
    (∃ c, i = .load c ∧ c.length ≠ s.taps ∧ t = answer ⟨.error .coefficientLengthMismatch, []⟩ s) ∨
    (∃ x, i = .process x ∧ s.ctrl = .uninitialized ∧ t = answer ⟨.error .notConfigured, []⟩ s) ∨
    (∃ x c, i = .process x ∧ s.ctrl ≠ .uninitialized ∧ s.coef = some c ∧
      t = answer ⟨.ok, [dotProduct c (shiftIn s.taps x s.sr)]⟩ ((srPush x s).setCtrl .streaming)) ∨
    (∃ j, i = .tap j ∧ s.ctrl = .uninitialized ∧ t = answer ⟨.error .notConfigured, []⟩ s) ∨
    (∃ j, i = .tap j ∧ s.ctrl ≠ .uninitialized ∧ s.taps ≤ j ∧ t = answer ⟨.error .indexOutOfRange, []⟩ s) ∨
    (∃ j store v, i = .tap j ∧ s.ctrl ≠ .uninitialized ∧ j < s.taps ∧ s.coef = some store ∧ store[j]? = some v ∧
      t = answer ⟨.ok, [v]⟩ s) ∨
    (i = .window ∧ t = answer ⟨.ok, s.sr⟩ s) := by
  cases i with
  | reset => exact .inl ⟨rfl, by simpa [exec, execReset_eq, eq_comm] using h⟩
  | load c =>
    rw [exec] at h
    by_cases hl : c.length = s.taps
    · rw [execLoad_ok hl] at h; cases h
      exact .inr (.inl ⟨c, rfl, hl, rfl⟩)
    · rw [execLoad_mismatch hl] at h; cases h
      exact .inr (.inr (.inl ⟨c, rfl, hl, rfl⟩))
  | process x =>
    rw [exec] at h
    by_cases hu : s.ctrl = .uninitialized
    · rw [execProcess_unconfigured hu] at h; cases h
      exact .inr (.inr (.inr (.inl ⟨x, rfl, hu, rfl⟩)))
    · cases hc : s.coef with
      | none => rw [execProcess_absent hu hc] at h; cases h
      | some c =>
        rw [execProcess_configured hu hc] at h; cases h
        exact .inr (.inr (.inr (.inr (.inl ⟨x, c, rfl, hu, rfl, rfl⟩))))
  | tap j =>
    rw [exec] at h
    by_cases hu : s.ctrl = .uninitialized
    · rw [execTap_unconfigured hu] at h; cases h
      exact .inr (.inr (.inr (.inr (.inr (.inl ⟨j, rfl, hu, rfl⟩)))))
    · by_cases hj : s.taps ≤ j
      · rw [execTap_out_of_range hu hj] at h; cases h
        exact .inr (.inr (.inr (.inr (.inr (.inr (.inl ⟨j, rfl, hu, hj, rfl⟩))))))
      · cases hc : s.coef with
        | none => simp [execTap, hu, hj, memRead, hc] at h
        | some store =>
          cases hv : store[j]? with
          | none => simp [execTap, hu, hj, memRead, hc, hv] at h
          | some v =>
            rw [execTap_in_range hu (by omega) hc hv] at h; cases h
            exact .inr (.inr (.inr (.inr (.inr (.inr (.inr (.inl ⟨j, store, v, rfl, hu, by omega, rfl, hv, rfl⟩)))))))
  | window =>
    refine .inr (.inr (.inr (.inr (.inr (.inr (.inr (.inr ⟨rfl, ?_⟩)))))))
    simpa [exec, execWindow_eq, eq_comm] using h

/-! ## step -/

@[simp] theorem takeCommand_cons (s : State) (p : Packet) (rest : List Packet) (h : s.commands = p :: rest) :
    takeCommand s = some (p, { s with commands := rest }) := by
  simp [takeCommand, h]

@[simp] theorem takeCommand_issueNext (p : Packet) (s : State) : takeCommand (issueNext p s) = some (p, s) := rfl

/-- A step of a waiting packet that is a command. -/
theorem step_of_ok {s : State} {p : Packet} {rest : List Packet} {i : Instr} (hp : s.commands = p :: rest)
    (hd : decode p = .ok i) : step s = exec i { s with commands := rest } := by
  simp [step, takeCommand_cons s p rest hp, hd]

/-- A step of a waiting packet that is no command. -/
theorem step_of_error {s : State} {p : Packet} {rest : List Packet} {why : Illegal} (hp : s.commands = p :: rest)
    (hd : decode p = .error why) :
    step s = .next (answer ⟨.error .illegalCommand, []⟩ { s with commands := rest }) := by
  simp [step, takeCommand_cons s p rest hp, hd, rejectPacket, raise]

theorem step_of_idle {s : State} (h : s.commands = []) : step s = .next s := by
  simp [step, takeCommand, h, idle]

/-- If a step answers a next state, it is one of these. -/
theorem step_next_cases {s t : State} (h : step s = .next t) :
    (s.commands = [] ∧ t = s) ∨
    (∃ p rest why, s.commands = p :: rest ∧ decode p = .error why ∧
      t = answer ⟨.error .illegalCommand, []⟩ { s with commands := rest }) ∨
    (∃ p rest i, s.commands = p :: rest ∧ decode p = .ok i ∧ exec i { s with commands := rest } = .next t) := by
  cases hc : s.commands with
  | nil => rw [step_of_idle hc] at h; cases h; exact .inl ⟨rfl, rfl⟩
  | cons p rest =>
    cases hd : decode p with
    | error why =>
      rw [step_of_error hc hd] at h; cases h
      exact .inr (.inl ⟨p, rest, why, rfl, hd, rfl⟩)
    | ok i =>
      rw [step_of_ok hc hd] at h
      exact .inr (.inr ⟨p, rest, i, rfl, hd, h⟩)

/-- A step of a packet the host has just issued, if it is a command. -/
theorem step_issueNext_ok {s : State} {p : Packet} {i : Instr} (hd : decode p = .ok i) :
    step (issueNext p s) = exec i s := by
  simp [step, hd]

theorem step_issueNext_error {s : State} {p : Packet} {why : Illegal} (hd : decode p = .error why) :
    step (issueNext p s) = .next (answer ⟨.error .illegalCommand, []⟩ s) := by
  simp [step, hd, rejectPacket, raise]

end Sys2Proof.Machine
end

