-- ==== Sys2Proof/Laws/Safety.lean ====
section
/-!
SUPPORT. The shared operations keep the invariant (`10_state.md` R26, R32), and what the invariant gives a proof about a
configured engine.
-/

namespace Sys2Proof.Machine

@[simp] theorem length_shiftIn (n : Nat) (x : Word) (w : List Word) (hn : 1 ≤ n) (hw : w.length = n) :
    (shiftIn n x w).length = n := by
  simp [shiftIn, List.length_take, hw]
  omega

theorem inv_answer {s : State} (r : Response) (h : s.Inv) : (answer r s).Inv := ⟨h.1, h.2, h.3, h.4, h.5⟩

theorem inv_issueNext {s : State} (p : Packet) (h : s.Inv) : (issueNext p s).Inv := ⟨h.1, h.2, h.3, h.4, h.5⟩

theorem inv_commands {s : State} (rest : List Packet) (h : s.Inv) : State.Inv { s with commands := rest } :=
  ⟨h.1, h.2, h.3, h.4, h.5⟩

theorem inv_srClear {s : State} (h : s.Inv) : (srClear s).Inv := ⟨h.1, h.2, by simp, h.4, h.5⟩

/-- A successful `COEF_WRITE` with the label that goes with it. -/
theorem inv_load {s : State} {c : List Word} (h : s.Inv) (hc : c.length = s.taps) :
    ((s.setCoef c).setCtrl .coefficientsLoaded).Inv :=
  ⟨h.1, h.2, h.3, by simp [hc], by simp⟩

/-- A push in a configured engine with the label that goes with it. -/
theorem inv_push {s : State} (x : Word) (h : s.Inv) (hu : s.ctrl ≠ .uninitialized) :
    ((srPush x s).setCtrl .streaming).Inv :=
  ⟨h.1, h.2, by simpa using length_shiftIn s.taps x s.sr h.1 h.3, h.4, by
    have := h.uninitialized_iff
    simp [← this, hu]⟩

/-- A configured engine within the invariant holds a vector of `N` elements. -/
theorem State.Inv.holds {s : State} (h : s.Inv) (hu : s.ctrl ≠ .uninitialized) :
    ∃ c, s.coef = some c ∧ c.length = s.taps := by
  cases hc : s.coef with
  | none => exact absurd (h.uninitialized_iff.2 hc) hu
  | some c => exact ⟨c, rfl, h.coef_length c hc⟩

theorem State.ConfiguredWith.length {s : State} {c : List Word} (h : s.ConfiguredWith c) : c.length = s.taps :=
  h.inv.coef_length c h.holds

/-- An unconfigured engine within the invariant holds no value in its store. -/
theorem State.Inv.absent {s : State} (h : s.Inv) (hu : s.ctrl = .uninitialized) : s.coef = none :=
  h.uninitialized_iff.1 hu

end Sys2Proof.Machine
end

