-- ==== Sys2Proof/Laws/HostProcedures.lean ====
section
/-!
SUPPORT. What issuing one command answers, and how a run of packets goes on after its first one.
-/

namespace Sys2Proof.Machine

@[simp] theorem lastResponse_answer (r : Response) (s : State) : lastResponse (answer r s) = some r := by
  simp [lastResponse]

/-- A command that reaches the engine as it was sent, and is answered. -/
theorem call_of_exec {i : Instr} {s u : State} {r : Response} (hd : decode (encode i) = .ok i)
    (he : exec i s = .next (answer r u)) : call i s = some (answer r u, r) := by
  simp [call, step_issueNext_ok hd, he]

/-- `PROCESS` in a configured engine, as the host sees it. -/
theorem call_process {s : State} {c : List Word} (x : Word) (h : s.ctrl ≠ .uninitialized) (hc : s.coef = some c) :
    call (.process x) s =
      some (answer ⟨.ok, [dotProduct c (shiftIn s.taps x s.sr)]⟩ ((srPush x s).setCtrl .streaming),
        ⟨.ok, [dotProduct c (shiftIn s.taps x s.sr)]⟩) :=
  call_of_exec (decode_headerWord _ _) (execProcess_configured h hc)

theorem call_process_unconfigured {s : State} (x : Word) (h : s.ctrl = .uninitialized) :
    call (.process x) s = some (answer ⟨.error .notConfigured, []⟩ s, ⟨.error .notConfigured, []⟩) :=
  call_of_exec (decode_headerWord _ _) (execProcess_unconfigured h)

theorem call_reset (s : State) : call .reset s = some (answer ⟨.ok, []⟩ (srClear s), ⟨.ok, []⟩) :=
  call_of_exec (decode_headerWord _ _) (execReset_eq s)

theorem call_load_ok {s : State} {c : List Word} (h : c.length = s.taps) :
    call (.load c) s =
      some (answer ⟨.ok, []⟩ ((s.setCoef c).setCtrl .coefficientsLoaded), ⟨.ok, []⟩) :=
  call_of_exec (decode_headerWord _ _) (execLoad_ok h)

theorem call_load_mismatch {s : State} {c : List Word} (h : c.length ≠ s.taps) :
    call (.load c) s =
      some (answer ⟨.error .coefficientLengthMismatch, []⟩ s, ⟨.error .coefficientLengthMismatch, []⟩) :=
  call_of_exec (decode_headerWord _ _) (execLoad_mismatch h)

@[simp] theorem runPackets_nil (s : State) : runPackets [] s = some s := rfl

/-- A run goes on from the state its first packet leaves. -/
theorem runPackets_cons {p : Packet} {s t : State} (rest : List Packet) (h : step (issueNext p s) = .next t) :
    runPackets (p :: rest) s = runPackets rest t := by
  rw [runPackets, h]

end Sys2Proof.Machine
end

