-- ==== Sys2Proof/Laws/PerInstr.lean ====
section
/-!
SUPPORT. The family `PacketForm`: what the packet of every command looks like (`30_encoding.md` R62, R63).
-/

namespace Sys2Proof.Laws.PacketForm

/-- The packet starts with the header word of the command's opcode, whose reserved field is zero, and its word count is one
the format of that opcode allows. -/
def Statement (i : Instr) : Prop :=
  ∃ h, encode i = h :: i.payload ∧ headerOp h = i.opcode.byte ∧ headerRsv h = 0#24 ∧
    (i.opcode.format ≠ .cmdv → (encode i).length = i.opcode.format.leastWords)

theorem reset : Statement .reset :=
  ⟨headerWord .reset, rfl, headerOp_headerWord _, headerRsv_headerWord _, fun _ => rfl⟩

theorem load (coefficients : List Word) : Statement (.load coefficients) :=
  ⟨headerWord .load, rfl, headerOp_headerWord _, headerRsv_headerWord _, fun h => absurd rfl h⟩

theorem process (sample : Word) : Statement (.process sample) :=
  ⟨headerWord .process, rfl, headerOp_headerWord _, headerRsv_headerWord _, fun _ => rfl⟩

theorem tap (index : Nat) : Statement (.tap index) :=
  ⟨headerWord .tap, rfl, headerOp_headerWord _, headerRsv_headerWord _, fun _ => rfl⟩

theorem window : Statement .window :=
  ⟨headerWord .window, rfl, headerOp_headerWord _, headerRsv_headerWord _, fun _ => rfl⟩

end Sys2Proof.Laws.PacketForm
end

