-- ==== Sys2Proof/Laws/Text.lean ====
section
/-!
SUPPORT. What an operand of the textual syntax stands for (`30_encoding.md` R71): every sample and every index has a decimal form.
-/

namespace Sys2Proof.Machine

theorem asSample_decimal (w : Word) : (Literal.decimal (sext32 w)).asSample = some w := by
  have lower := sext32_lower w
  have upper := sext32_upper w
  unfold Literal.asSample
  dsimp only
  rw [if_pos ⟨lower, by omega⟩, word32_sext32]

theorem asIndex_decimal (k : Nat) (h : k < 4294967296) : (Literal.decimal (k : Int)).asIndex = some k := by
  unfold Literal.asIndex
  dsimp only
  rw [if_pos ⟨by omega, by omega⟩, Int.toNat_natCast]

end Sys2Proof.Machine
end

