-- ==== Sys2Proof/Tests/Slice0.lean ====
section
/-!
SUPPORT. Tests on fixed values. Expected values are those of `spec/95_test_vectors.md`, named by their vector, or are worked out by
hand from the rule named. After them, one witness per statement with hypotheses: a concrete state and operands that meet all of them.
-/

namespace Sys2Proof.Tests

open Sys2Proof.Machine

/-! ## WellFormed: one check, one ill-formed term -/

theorem test_wellFormed_refuses_index_2_32 : ¬ WellFormed (.tap 4294967296) := by decide

theorem test_wellFormed_accepts_greatest_index : WellFormed (.tap 4294967295) := by decide

/-! ## Decode: words written out from R62 to R64 -/

/-- Whether a packet decodes to this command. -/
def decodesTo (p : Packet) (i : Instr) : Bool :=
  match decode p with
  | .ok j => decide (j = i)
  | .error _ => false

/-- Whether a packet is rejected under this case of R68. -/
def rejects (p : Packet) (why : Illegal) : Bool :=
  match decode p with
  | .ok _ => false
  | .error w => decide (w = why)

/-- E1: `OP = 0000_0001`, 24 zeros. -/
theorem test_decode_reset : decodesTo [0b00000001_000000000000000000000000#32] .reset = true := by decide

/-- E2: `OP = 0000_0101`. -/
theorem test_decode_window : decodesTo [0b00000101_000000000000000000000000#32] .window = true := by decide

/-- E6: the most negative sample. -/
theorem test_decode_process :
    decodesTo [0b00000011_000000000000000000000000#32, 0x80000000#32] (.process (word32 (-2147483648))) = true := by decide

/-- E9: the index is unsigned. -/
theorem test_decode_tap :
    decodesTo [0b00000100_000000000000000000000000#32, 0xFFFFFFFF#32] (.tap 4294967295) = true := by decide

/-- E12: coefficients in index order, signed. -/
theorem test_decode_load :
    decodesTo [0b00000010_000000000000000000000000#32, 0x7FFFFFFF#32, 0x80000000#32, 0xFFFFFFFF#32, 0x00000000#32]
      (.load [word32 2147483647, word32 (-2147483648), word32 (-1), word32 0]) = true := by decide

/-- E10: the empty vector is a legal packet. -/
theorem test_decode_load_empty : decodesTo [0x02000000#32] (.load []) = true := by decide

/-- E13: told apart from a `PROCESS` packet by `OP` only. -/
theorem test_decode_load_one : decodesTo [0x02000000#32, 0x00000007#32] (.load [7#32]) = true := by decide

/-- E11, the other direction. -/
theorem test_encode_load :
    encode (.load [word32 1, word32 (-2), word32 3]) =
      [0x02000000#32, 0x00000001#32, 0xFFFFFFFE#32, 0x00000003#32] := by decide

/-- X1, case (a). -/
theorem test_reject_empty : rejects [] .emptyPacket = true := by decide

/-- X2, X3, X4, X14, case (b). -/
theorem test_reject_opcode :
    ([[0x00000000#32], [0x06000000#32], [0xFF000000#32, 1#32], [0#32, 1#32, 2#32]] : List Packet).all
      (rejects · .unassignedOpcode) = true := by decide

/-- X5, X6, X7, case (c). -/
theorem test_reject_reserved :
    ([[0x01000001#32], [0x02800000#32, 1#32, 2#32, 3#32], [0x03FFFFFF#32, 5#32]] : List Packet).all
      (rejects · .reservedNonzero) = true := by decide

/-- X8 to X13, case (d). -/
theorem test_reject_word_count :
    ([[0x01000000#32, 0#32], [0x05000000#32, 0#32, 0#32], [0x03000000#32], [0x03000000#32, 1#32, 2#32],
      [0x04000000#32], [0x04000000#32, 0#32, 0#32]] : List Packet).all (rejects · .wrongWordCount) = true := by decide

/-- The five table rows as 32-bit table words; the missing payload word is zero. -/
theorem test_table_words :
    [0x01000000, 0x02000000, 0x03000000, 0x04000000, 0x05000000].map (decodeTableWord 32) =
      [some .reset, some (.load []), some (.process 0#32), some (.tap 0), some .window] := by decide

/-- A table word of two words: the second word's bits count on from bit 32. -/
theorem test_table_word_payload :
    decodeTableWord 64 0xFFFFFFFE_03000000 = some (.process (word32 (-2))) := by decide

/-! ## One step -/

/-- Coefficients or samples, written as signed numbers. -/
def words (vs : List Int) : List Word := vs.map word32

/-- `N = 3`, `COEF = [1, 2, 3]`, `SR = [6, 5, 0]`, `Streaming`: the start of T3. -/
def demo : State := { State.resetWith 3 with coef := some (words [1, 2, 3]), sr := words [6, 5, 0], ctrl := .streaming }

/-- The state before P2 step 11. -/
def demoSigned : State :=
  { State.resetWith 3 with coef := some (words [1, -2, 3]), sr := words [-1, 0, 0], ctrl := .streaming }

/-- A fresh engine with three taps. -/
def fresh : State := State.resetWith 3

/-- Whether a result is this next state. -/
def isNext (r : Result) (t : State) : Bool :=
  match r with
  | .next u => decide (u = t)
  | .fault _ => false
  | .refused _ => false

/-- Whether a result is a next state with this latest response. -/
def responds (r : Result) (q : Packet) : Bool :=
  match r with
  | .next u => decide (u.responses.getLast? = some q)
  | .fault _ => false
  | .refused _ => false

/-- T3: the history is cleared, coefficients and label are kept. -/
theorem test_reset : isNext (exec .reset demo) { demo with sr := words [0, 0, 0], responses := [[0x00000000#32]] } = true := by
  decide

/-- T4: the window is kept, the label falls back. -/
theorem test_load :
    isNext (exec (.load (words [4, 5, 6])) demo)
      { demo with coef := some (words [4, 5, 6]), ctrl := .coefficientsLoaded, responses := [[0x00000000#32]] } = true := by
  decide

/-- T5. -/
theorem test_load_mismatch :
    isNext (exec (.load (words [1, 2, 3, 4])) demo) { demo with responses := [[0x01000000#32]] } = true := by decide

/-- P2 step 11: `PROCESS 4` answers 6. -/
theorem test_process :
    isNext (exec (.process (word32 4)) demoSigned)
      { demoSigned with sr := words [4, -1, 0], responses := [[0x00000000#32, 0x00000006#32]] } = true := by decide

/-- P2 step 1: nothing is pushed. -/
theorem test_process_unconfigured :
    isNext (exec (.process (word32 5)) fresh) { fresh with responses := [[0x02000000#32]] } = true := by decide

/-- P2 step 13: `TAP 1` reads -2. -/
theorem test_tap : responds (exec (.tap 1) demoSigned) [0x00000000#32, 0xFFFFFFFE#32] = true := by decide

/-- K2 and K4: `NotConfigured` comes before `IndexOutOfRange`; the index does not wrap. -/
theorem test_tap_errors :
    responds (exec (.tap 7) fresh) [0x02000000#32] = true ∧ responds (exec (.tap 3) demo) [0x03000000#32] = true ∧
      responds (exec (.tap 4294967295) demo) [0x03000000#32] = true := by decide

/-- P2 step 12 has the form of this one: newest first, state unchanged (R92). -/
theorem test_window :
    isNext (exec .window demo) { demo with responses := [[0x00000000#32, 6#32, 5#32, 0#32]] } = true := by decide

/-- P2 step 3: legal before any `LOAD`. -/
theorem test_window_unconfigured : responds (exec .window fresh) [0#32, 0#32, 0#32, 0#32] = true := by decide

/-- P2 steps 16 and 20: an illegal packet in a step. -/
theorem test_step_illegal :
    isNext (step (issueNext [0x06000000#32] demo)) { demo with responses := [[0x04000000#32]] } = true ∧
      isNext (step (issueNext [] demo)) { demo with responses := [[0x04000000#32]] } = true := by decide

/-- From reset, the engine of 99 taps runs a table word in the very next step: `WINDOW` answers 99 zeros. -/
theorem test_first_step_after_reset :
    responds (step (State.reset.withFetchWord 32 0x05000000)) (List.replicate 100 0#32) = true := by decide

/-- R31: the engine right after reset. -/
theorem test_reset_state :
    State.reset.taps = 99 ∧ State.reset.coef = none ∧ State.reset.sr = List.replicate 99 0#32 ∧
      State.reset.ctrl = .uninitialized := by decide

/-! ## Arithmetic -/

/-- M3: coefficient `k` meets window position `k`. -/
theorem test_pairing : dotProduct (words [3, 2, 1]) (words [1, 2, 3]) = 0x0000000A#32 := by decide

/-- M13, M19: wraparound of a product, and an accumulator beyond 64 bits. -/
theorem test_wraparound :
    dotProduct (words [46341]) (words [46341]) = 0x80001219#32 ∧
      dotProduct (words [2147483647, 2147483647]) (words [2147483647, 2147483647]) = 2#32 := by decide

/-- M16: the sum wraps below. -/
theorem test_sum_wraps : dotProduct (words [1, 1]) (words [-2147483648, -1]) = 0x7FFFFFFF#32 := by decide

/-! ## Host procedures -/

/-- S1: the source's example. -/
theorem test_filter_impulse :
    ((filter (words [1, 2, 3]) (words [1, 0, 0, 0]) fresh).map fun a => a.2) = some ⟨.ok, words [1, 2, 3, 0]⟩ := by decide

/-- T7: a failed `LOAD` ends a `FILTER`; one packet is answered. -/
theorem test_filter_mismatch :
    filter (words [1, 2]) (words [5, 6]) fresh =
      some ({ fresh with responses := [[0x01000000#32]] }, ⟨.error .coefficientLengthMismatch, []⟩) := by decide

/-- T8, T9. -/
theorem test_stream_unconfigured :
    processStream (words [5, 6]) fresh =
        some ({ fresh with responses := [[0x02000000#32]] }, ⟨.error .notConfigured, []⟩) ∧
      processStream [] fresh = some (fresh, ⟨.ok, []⟩) := by decide

/-! ## Realisations -/

/-- R90: an upward copy smears `SR[0]`, a downward one does not. -/
theorem test_sequential_push :
    (pushUpward 9#32 demo).sr = words [9, 6, 6] ∧ (pushDownward 9#32 demo).sr = words [9, 6, 5] := by decide

/-- R106 below 32 bits, by hand: a signed 16-bit register that holds `-1 * 1` narrows to `-1`, one that holds `1 * 65536` to 0. -/
theorem test_narrow_accumulator :
    (AdderTree.lane 0).output 16 true (words [-1]) (words [1]) = 0xFFFFFFFF#32 ∧
      (AdderTree.lane 0).output 16 false (words [1]) (words [65536]) = 0#32 := by decide

/-! ## Text (R71) -/

theorem test_read_command :
    parseLine "  LOAD 1, -2, 0x00000003 ; three taps" = some (.command (.load (words [1, -2, 3]))) := by decide

theorem test_read_empty_load : parseLine "LOAD" = some (.command (.load [])) := by decide

theorem test_read_filter :
    parseLine "FILTER [1, 2, 3], [1, 0]" = some (.filter (words [1, 2, 3]) (words [1, 0])) := by decide

theorem test_write_exchange :
    exchangeText (.process (word32 4)) ⟨.ok, words [-16]⟩ = "PROCESS 4 => OK [-16]" := by decide

/-! ## Witnesses: states within the invariant -/

theorem demo_inv : demo.Inv := ⟨by decide, by decide, by decide, by intro c h; cases h; rfl, by decide⟩

theorem fresh_inv : fresh.Inv := ⟨by decide, by decide, by decide, (by intro c h; cases h), by decide⟩

/-- The demo engine after a fresh `LOAD` of its own coefficients (T4). -/
def demoLoaded : State := demo.setCtrl .coefficientsLoaded

theorem demoLoaded_inv : demoLoaded.Inv := ⟨by decide, by decide, by decide, by intro c h; cases h; rfl, by decide⟩

theorem demo_configured : demo.ConfiguredWith (words [1, 2, 3]) := ⟨demo_inv, by decide, rfl⟩

/-- `N = 1`, the least: `COEF = [2]`. -/
def single : State := { State.resetWith 1 with coef := some (words [2]), sr := words [7], ctrl := .streaming }

theorem single_inv : single.Inv := ⟨by decide, by decide, by decide, by intro c h; cases h; rfl, by decide⟩

theorem single_configured : single.ConfiguredWith (words [2]) := ⟨single_inv, by decide, rfl⟩

/-- The state with one packet waiting. -/
def waiting (p : Packet) (s : State) : State := issueNext p s

/-! ## Witnesses: one for every statement with hypotheses -/

theorem witness_DecodeAndEncodeAreInverse :
    WellFormed (.tap 4294967295) ∧ decode [0x04000000#32, 0xFFFFFFFF#32] = .ok (.tap 4294967295) := ⟨by decide, rfl⟩

/-- The five ways to be illegal, each at a boundary: no word, opcode 0, opcode 6, the least and greatest reserved field, a word
too many, a word too few. -/
theorem witness_IllegalPacketsAreAnsweredAndChangeNothing :
    ([[], [0x00FFFFFF#32], [0x06000000#32], [0x01000001#32], [0x02800000#32], [0x01000000#32, 0#32], [0x05000000#32, 0#32],
      [0x03000000#32], [0x04000000#32], [0x04000000#32, 0#32, 0#32]] : List Packet).Forall illegalPacket ∧
      (waiting [] demo).commands = [] :: [] ∧ (waiting [0x05000000#32, 0#32] demo).commands = [0x05000000#32, 0#32] :: [] := by
  simp [illegalPacket, waiting, demo, State.resetWith]

/-- The last legal packets next to the boundaries of R68 are not illegal. -/
theorem witness_legal_packets :
    ¬ illegalPacket [0x01000000#32] ∧ ¬ illegalPacket [0x05000000#32] ∧ ¬ illegalPacket [0x02000000#32] ∧
      ¬ illegalPacket [0x03000000#32, 0#32] := by
  simp [illegalPacket]

theorem witness_WordConversionsAgree :
    (-2147483648 : Int) ≤ -2147483648 ∧ (-2147483648 : Int) ≤ 2147483647 ∧ (2147483647 : Int) ≤ 2147483647 := by decide

theorem witness_StatusNumbersAndResponsePackets : 5 ≤ (0x05#8).toNat ∧ 5 ≤ (0xFF#8).toNat := by decide

theorem witness_CommandTextReadsBack : WellFormed (.tap 4294967295) ∧ WellFormed (.load []) ∧ WellFormed .reset := by decide

theorem witness_StepRunsTheDecodedCommand :
    (waiting [0x05000000#32] demo).commands = [0x05000000#32] :: [] ∧ decode [0x05000000#32] = .ok .window := ⟨rfl, rfl⟩

theorem witness_TableWordRunsInTheNextStep :
    decodeTableWord 32 0x03000000 = some (.process 0#32) ∧ decodeTableWord 32 0x02000000 = some (.load []) := by decide

theorem witness_IdleEngineHoldsItsState : demo.commands = [] ∧ State.reset.commands = [] := by decide

theorem witness_EveryPacketGetsExactlyOneResponse :
    (waiting [0x06000000#32] demo).Inv ∧ (waiting [0x06000000#32] demo).commands = [0x06000000#32] :: [] ∧
      decode [0x06000000#32] = .error .unassignedOpcode ∧
      (waiting [0x04000000#32, 3#32] demo).Inv ∧ decode [0x04000000#32, 3#32] = .ok (.tap 3) :=
  ⟨inv_issueNext _ demo_inv, rfl, rfl, inv_issueNext _ demo_inv, rfl⟩

/-- Every branch of the table: `LOAD` of 2, 3 and 4 coefficients, `TAP 2` and `TAP 3` with `N = 3`, `PROCESS` in both kinds of
state, an illegal packet. -/
theorem witness_EveryCommandInEveryStateFollowsTheTable :
    ([encode (.load (words [1, 2])), encode (.load (words [1, 2, 3])), encode (.load (words [1, 2, 3, 4])), encode (.tap 2),
      encode (.tap 3), encode (.process 0#32), encode .reset, encode .window, [0x01000001#32]] : List Packet).Forall
      (fun p => (waiting p demo).Inv ∧ (waiting p fresh).Inv ∧ (waiting p demo).commands = p :: []) ∧
      demo.ctrl ≠ .uninitialized ∧ fresh.ctrl = .uninitialized ∧ demo.taps = 3 := by
  have h : ∀ p, (waiting p demo).Inv ∧ (waiting p fresh).Inv ∧ (waiting p demo).commands = p :: [] := fun p =>
    ⟨inv_issueNext p demo_inv, inv_issueNext p fresh_inv, rfl⟩
  exact ⟨List.forall_iff_forall_mem.2 fun p _ => h p, by decide, rfl, rfl⟩

theorem witness_ErrorPriorityIsFixed :
    (waiting [0x03000001#32] fresh).commands = [0x03000001#32] :: [] ∧ illegalPacket [0x03000001#32] ∧
      fresh.ctrl = .uninitialized ∧ demo.ctrl ≠ .uninitialized ∧ demo.taps ≤ 3 ∧
      (words [1, 2]).length ≠ demo.taps ∧ (words [1, 2, 3, 4]).length ≠ demo.taps := by
  refine ⟨rfl, ?_, by decide, by decide, by decide, by decide, by decide⟩
  simp [illegalPacket]

theorem witness_DataWordCountFollowsCommandAndStatus :
    demo.Inv ∧ exec .window demo = .next (answer ⟨.ok, demo.sr⟩ demo) ∧
      (answer ⟨.ok, demo.sr⟩ demo).responses = demo.responses ++ [encodeResponse ⟨.ok, demo.sr⟩] ∧
      exec (.tap 3) demo = .next (answer ⟨.error .indexOutOfRange, []⟩ demo) :=
  ⟨demo_inv, rfl, rfl, execTap_out_of_range (by decide) (by decide)⟩

theorem witness_RunsAnswerInCommandOrder : (waiting [] demo).Inv ∧ (waiting [] demo).commands = [[]] :=
  ⟨inv_issueNext _ demo_inv, rfl⟩

theorem witness_CoefWriteChecksLengthThenReplacesAll :
    (words [1, 2]).length ≠ demo.taps ∧ (words [1, 2, 3]).length = demo.taps ∧ (words [1, 2, 3, 4]).length ≠ demo.taps ∧
      ([] : List Word).length ≠ demo.taps := by decide

theorem witness_LoadReplacesTheStoreOrIsRefused :
    (words [1, 2, 3]).length = fresh.taps ∧ ([] : List Word).length ≠ fresh.taps ∧ (words [1, 2, 3, 4]).length ≠ fresh.taps := by
  decide

theorem witness_ProcessPushesThenComputes :
    fresh.Inv ∧ fresh.ctrl = .uninitialized ∧ demo.Inv ∧ demo.ctrl ≠ .uninitialized ∧ single.Inv ∧
      single.ctrl ≠ .uninitialized := ⟨fresh_inv, rfl, demo_inv, by decide, single_inv, by decide⟩

theorem witness_TapReadsOneCoefficient :
    fresh.Inv ∧ fresh.ctrl = .uninitialized ∧ demo.Inv ∧ demo.ctrl ≠ .uninitialized ∧ demo.taps ≤ 3 ∧ 2 < demo.taps ∧
      0 < demo.taps := ⟨fresh_inv, rfl, demo_inv, by decide, by decide, by decide, by decide⟩

/-- One next state for each of the five commands, for an error and for an illegal packet. -/
theorem witness_OnlyTheNamedCommandsWrite :
    exec .reset demo = .next (answer ⟨.ok, []⟩ (srClear demo)) ∧
      exec (.load (words [4, 5, 6])) demo =
        .next (answer ⟨.ok, []⟩ ((demo.setCoef (words [4, 5, 6])).setCtrl .coefficientsLoaded)) ∧
      exec (.process 4#32) demo =
        .next (answer ⟨.ok, [dotProduct (words [1, 2, 3]) (shiftIn 3 4#32 demo.sr)]⟩ ((srPush 4#32 demo).setCtrl .streaming)) ∧
      exec (.tap 2) demo = .next (answer ⟨.ok, [word32 3]⟩ demo) ∧
      exec .window demo = .next (answer ⟨.ok, demo.sr⟩ demo) ∧
      exec (.tap 0) fresh = .next (answer ⟨.error .notConfigured, []⟩ fresh) ∧ illegalPacket [0x00000000#32] ∧
      step (waiting [0x00000000#32] demo) = .next (answer ⟨.error .illegalCommand, []⟩ demo) :=
  ⟨rfl, rfl, rfl, rfl, rfl, rfl, .inl rfl, rfl⟩

theorem witness_ErrorsLeaveTheStateUnchanged :
    (waiting [0x04000000#32, 3#32] demo).commands = [0x04000000#32, 3#32] :: [] ∧
      step (waiting [0x04000000#32, 3#32] demo) = .next (answer ⟨.error .indexOutOfRange, []⟩ demo) ∧
      (answer ⟨.error .indexOutOfRange, []⟩ demo).responses =
        demo.responses ++ [encodeResponse ⟨.error .indexOutOfRange, []⟩] := ⟨rfl, rfl, rfl⟩

theorem witness_ErrorsLeaveNoTrace :
    demo.Inv ∧ step (issueNext [0x06000000#32] demo) = .next (answer ⟨.error .illegalCommand, []⟩ demo) ∧
      (answer ⟨.error .illegalCommand, []⟩ demo).responses =
        demo.responses ++ [encodeResponse ⟨.error .illegalCommand, []⟩] := ⟨demo_inv, rfl, rfl⟩

theorem witness_ReadsCanBeDroppedFromAnyRun :
    demo.Inv ∧ WellFormed (.tap 4294967295) ∧ WellFormed .window ∧ (∃ k, Instr.tap 4294967295 = .tap k) :=
  ⟨demo_inv, by decide, by decide, ⟨_, rfl⟩⟩

theorem witness_NotConfiguredNeverReturns : demoLoaded.Inv ∧ demoLoaded.ctrl ≠ .uninitialized := ⟨demoLoaded_inv, by decide⟩

theorem witness_StoreChangesOnlyAsAWhole :
    step (waiting [0x02000000#32, 4#32, 5#32, 6#32] demo) =
        .next (answer ⟨.ok, []⟩ ((demo.setCoef [4#32, 5#32, 6#32]).setCtrl .coefficientsLoaded)) ∧
      (answer ⟨.ok, []⟩ ((demo.setCoef [4#32, 5#32, 6#32]).setCtrl .coefficientsLoaded)).coef ≠
        (waiting [0x02000000#32, 4#32, 5#32, 6#32] demo).coef := ⟨rfl, by decide⟩

/-- `N = 1` (no position to move) and `N = 3` (the last position that moves). -/
theorem witness_PushMovesEveryElementByOne : single.Inv ∧ demo.Inv ∧ 0 + 1 < demo.taps ∧ 1 + 1 < demo.taps :=
  ⟨single_inv, demo_inv, by decide, by decide⟩

theorem witness_ClearGivesTheFreshWindow : 0 < demo.taps ∧ 2 < demo.taps := by decide

/-- Fewer pushes than positions, and more. -/
theorem witness_WindowAfterARunOfPushes :
    demo.Inv ∧ 2 < demo.taps ∧ ¬ 2 < (words [7, 8]).length ∧ 2 < (words [1, 2, 3, 4]).length :=
  ⟨demo_inv, by decide, by decide, by decide⟩

theorem witness_SequentialPushRunsDownward : demo.Inv ∧ single.Inv ∧ pushUpward 9#32 demo ≠ srPush 9#32 demo :=
  ⟨demo_inv, single_inv, by decide⟩

theorem witness_RingBufferShowsTheSameWindow :
    (RingBuffer.mk (words [5, 0, 6]) 2).cells.length = 3 ∧ (RingBuffer.mk (words [5, 0, 6]) 2).head < 3 ∧
      (RingBuffer.mk (words [7]) 0).cells.length = 1 ∧ (RingBuffer.mk (words [7]) 0).head < 1 := by decide

theorem witness_ElementsExistExactlyBelowN : demo.Inv ∧ fresh.Inv ∧ demoLoaded.Inv := ⟨demo_inv, fresh_inv, demoLoaded_inv⟩

theorem witness_ComputeIsTheNarrowedDotProduct :
    demo.ConfiguredWith (words [1, 2, 3]) ∧ single.ConfiguredWith (words [2]) ∧ (srClear demo).coef = demo.coef ∧
      (∀ k, k < (srClear demo).taps → (srClear demo).sr.getD k 0#32 = 0#32) ∧ demo.coef = demoLoaded.coef ∧
      demo.sr = demoLoaded.sr ∧ fresh.coef = none :=
  ⟨demo_configured, single_configured, rfl, by decide, rfl, rfl, rfl⟩

theorem witness_LaneProductsArePairedAndBounded :
    (words [1, 2, 3]).length = 3 ∧ (words [6, 5, 0]).length = 3 ∧ 2 < 3 := by decide

theorem witness_AccumulatorIsExactAndItsWidthIsTheLeast :
    1 ≤ 1 ∧ (words [-2147483648]).length = 1 ∧ (words [2147483647]).length = 1 ∧ (words [1, 2, 3]).length = 3 := by decide

/-- Both ends of the 32-bit range, for an accumulator one above it. -/
theorem witness_NarrowingIsTheUniqueWrappedValue :
    ((4294967296 : Int) ∣ 2147483648 - (-2147483648)) ∧ (-2147483648 : Int) ≤ -2147483648 ∧ (-2147483648 : Int) ≤ 2147483647 := by
  decide

/-- The least width that works, two lanes added in the wrong order, and the greatest width that does not. -/
theorem witness_AccumulatorWidthAndOrderDoNotShow :
    32 ≤ 32 ∧ (words [1, 2]).length = 2 ∧ (words [3, 4]).length = 2 ∧
      (AdderTree.add (.lane 1) (.lane 0)).lanesUsed.Perm (List.range 2) ∧ 31 < 32 := by decide

/-- M7: `2 * 1073741824` is one above the range. -/
theorem witness_OverflowIsNoError :
    single.ConfiguredWith (words [2]) ∧
      (2147483648 : Int) = ∑ k ∈ Finset.range single.taps,
        sext32 ((words [2]).getD k 0#32) * sext32 ((word32 1073741824 :: single.sr).getD k 0#32) ∧
      (2147483647 : Int) < 2147483648 := ⟨single_configured, by decide, by decide⟩

theorem witness_ProcessStreamIsOneProcessPerSample :
    fresh.Inv ∧ fresh.ctrl = .uninitialized ∧ words [5] ≠ [] ∧ demo.Inv ∧ demo.ctrl ≠ .uninitialized :=
  ⟨fresh_inv, rfl, by decide, demo_inv, by decide⟩

theorem witness_FilterLoadsResetsAndStreams :
    fresh.Inv ∧ (words [1, 2]).length ≠ fresh.taps ∧ (words [1, 2, 3]).length = fresh.taps ∧
      (words [1, 2, 3, 4]).length ≠ fresh.taps ∧ demo.Inv ∧ demo.taps = fresh.taps :=
  ⟨fresh_inv, by decide, by decide, by decide, demo_inv, rfl⟩

/-- Index 1 is below `N`, index 3 is past it, where the sum has its full length. -/
theorem witness_CausalConvolutionLaw :
    fresh.Inv ∧ (words [1, 2, 3]).length = fresh.taps ∧ 1 < (words [1, 2, 3, 4, 5]).length ∧
      3 < (words [1, 2, 3, 4, 5]).length ∧ demo.ConfiguredWith (words [1, 2, 3]) :=
  ⟨fresh_inv, by decide, by decide, by decide, demo_configured⟩

theorem witness_ResetAndReplayGivesTheSameOutputs :
    demo.ConfiguredWith (words [1, 2, 3]) ∧ streamKeepsCoefficients [.reset, .process 1#32, .tap 4294967296, .window] = true :=
  ⟨demo_configured, by decide⟩

theorem witness_EmptyStreamGivesNoOutput : (words [1, 2, 3]).length = fresh.taps := by decide

/-- Two vectors that agree on the first coefficient only, and output 0 of a stream of one sample. -/
theorem witness_ShortStreamsUseOnlyTheFirstCoefficients :
    fresh.Inv ∧ (words [5, -7, 11]).length = fresh.taps ∧ (words [5, 8, 9]).length = fresh.taps ∧
      0 < (words [1]).length ∧ (∀ k, k ≤ 0 → (words [5, -7, 11]).getD k 0#32 = (words [5, 8, 9]).getD k 0#32) ∧ words [1] ≠ [] :=
  ⟨fresh_inv, by decide, by decide, by decide, by decide, by decide⟩

/-- L6: outputs whose sum is in range at index 0 and out of range at index 2. -/
theorem witness_FilterIsLinear :
    fresh.Inv ∧ (words [2147483647, -2147483648, -1]).length = fresh.taps ∧
      (words [2147483647, 2147483647, -2147483648]).length = (words [2147483647, 1, -2147483648]).length ∧
      0 < (words [2147483647, 2147483647, -2147483648]).length ∧
      -2147483648 ≤ sext32 ((words [1, -2147483647, -2147483647]).getD 0 0#32) + sext32 ((words [1, -1, -2147483647]).getD 0 0#32) ∧
      sext32 ((words [1, -2147483647, -2147483647]).getD 0 0#32) + sext32 ((words [1, -1, -2147483647]).getD 0 0#32) ≤
        2147483647 :=
  ⟨fresh_inv, by decide, by decide, by decide, by decide, by decide⟩

/-- An all-zero store, and the first zero sample whose output must be zero. -/
theorem witness_ZeroInputGivesZeroOutput :
    fresh.Inv ∧ (words [1, 2, 3]).length = fresh.taps ∧ demo.ConfiguredWith (words [1, 2, 3]) ∧ demo.taps - 1 ≤ 2 ∧ 2 < 4 ∧
      State.ConfiguredWith (List.replicate 3 0#32) (demo.setCoef (List.replicate 3 0#32)) :=
  ⟨fresh_inv, by decide, demo_configured, by decide, by decide,
    ⟨⟨by decide, by decide, by decide, by intro c h; cases h; rfl, by decide⟩, by decide, rfl⟩⟩

theorem witness_ImpulseAndStepResponses : fresh.Inv ∧ (words [1, 2, 3]).length = fresh.taps ∧ 3 ≤ 3 ∧ ¬ 3 < fresh.taps ∧ 2 < 3 :=
  ⟨fresh_inv, by decide, by decide, by decide, by decide⟩

theorem witness_StreamingAndLoadedAreIndistinguishable : demo.Inv ∧ demoLoaded.Inv ∧ demo.SameUpToLabel demoLoaded :=
  ⟨demo_inv, demoLoaded_inv, rfl, rfl, rfl, by decide, by decide⟩

theorem witness_LoadIsSeenByTheNextCommands : fresh.Inv ∧ (words [4, 5, 6]).length = fresh.taps ∧ 2 < fresh.taps :=
  ⟨fresh_inv, by decide, by decide⟩

theorem witness_FailedReloadKeepsTheEarlierVector :
    demo.ConfiguredWith (words [1, 2, 3]) ∧ (words [9, 9]).length ≠ demo.taps ∧ (words [9, 9, 9, 9]).length ≠ demo.taps :=
  ⟨demo_configured, by decide, by decide⟩

theorem witness_SessionStartsInTheResetState :
    Config.minTaps ≤ 1 ∧ 1 ≤ Config.maxTaps ∧ Config.minTaps ≤ 4294967295 ∧ 4294967295 ≤ Config.maxTaps ∧ 0 < 1 := by decide

theorem witness_EveryStepKeepsTheInvariant :
    (waiting [0x03000000#32, 4#32] demo).Inv ∧
      step (waiting [0x03000000#32, 4#32] demo) =
        .next (answer ⟨.ok, [dotProduct (words [1, 2, 3]) (shiftIn 3 4#32 demo.sr)]⟩ ((srPush 4#32 demo).setCtrl .streaming)) ∧
      Config.minTaps ≤ 1 ∧ 1 ≤ Config.maxTaps :=
  ⟨inv_issueNext _ demo_inv, rfl, by decide, by decide⟩

/-- A start state, and a state one step later. -/
theorem witness_ReachableEnginesNeverStop :
    State.Reachable { State.resetWith 3 with commands := [[]] } ∧
      State.Reachable (answer ⟨.error .illegalCommand, []⟩ (State.resetWith 3)) :=
  ⟨.start 3 [[]] (by decide) (by decide), .next _ _ (.start 3 [[]] (by decide) (by decide)) rfl⟩

/-- Both sides of the equivalence are met: outside the invariant a `PROCESS` and a `TAP` stop. -/
theorem witness_FaultOnlyWithoutTheStoredElement :
    exec (.process 1#32) (fresh.setCtrl .streaming) = .fault .coefficientAbsent ∧
      exec (.tap 2) ((fresh.setCtrl .streaming).setCoef (words [1, 2])) = .fault .coefficientAbsent ∧
      2 < fresh.taps ∧ memRead .coef 2 ((fresh.setCtrl .streaming).setCoef (words [1, 2])) = none :=
  ⟨rfl, rfl, by decide, by decide⟩

theorem witness_ResetCommandIsNotTheResetEvent : demo.Inv ∧ demo.ctrl ≠ .uninitialized := ⟨demo_inv, by decide⟩

theorem witness_LabelPatternsAreDistinct : Ctrl.bits .streaming = Ctrl.bits .streaming := rfl

theorem witness_SessionsDoNotInterfere :
    0 ≠ 1 ∧ stepSession 0 [waiting [] demo, fresh] = some [answer ⟨.error .illegalCommand, []⟩ demo, fresh] := ⟨by decide, rfl⟩

end Sys2Proof.Tests
end

section
/-!
PROOFS. The scope statements of `00_scope.md`: the conversions of R14 in closed form, the exact accumulator with its bounds and its
least width (R8, R102, R103), and the step of a waiting command (R11).
-/

namespace Sys2Proof.Machine

/-! ## The conversions in closed form (R14) -/

/-- The word of an integer is its remainder modulo `2^32`. -/
theorem toNat_word32 (a : Int) : ((word32 a).toNat : Int) = a % 4294967296 := by
  rw [word32, BitVec.toNat_ofInt, Int.toNat_of_nonneg (Int.emod_nonneg a (by norm_num))]
  norm_num

/-- `narrow_32` shifts the range to start at 0, takes the remainder, and shifts back. -/
theorem narrow32_eq_emod (a : Int) : narrow32 a = (a + 2147483648) % 4294967296 - 2147483648 := by
  rw [narrow32_eq_bmod, Int.bmod_def]
  split <;> omega

/-- An integer in the signed 32-bit range is narrowed to itself. -/
theorem narrow32_eq_self {v : Int} (lower : -2147483648 ≤ v) (upper : v ≤ 2147483647) : narrow32 v = v := by
  rw [narrow32_eq_emod]
  omega

/-! ## One product (R102) -/

/-- The least product is `-2^31` times `2^31 - 1`: factors of one sign give a product that is not negative, and of two
factors of different signs the positive one is at most `2^31 - 1`. -/
theorem product_lower (a b : Word) : -4611686016279904256 ≤ sext32 a * sext32 b := by
  have ha := sext32_lower a
  have ha' := sext32_upper a
  have hb := sext32_lower b
  have hb' := sext32_upper b
  rcases le_or_gt 0 (sext32 a) with hsa | hsa
  · nlinarith [mul_le_mul_of_nonneg_left hb hsa]
  · rcases le_or_gt 0 (sext32 b) with hsb | hsb
    · nlinarith [mul_le_mul_of_nonneg_right ha hsb]
    · linarith [mul_pos_of_neg_of_neg hsa hsb]

/-- The greatest product is `-2^31` times itself: no factor exceeds `2^31` in absolute value. -/
theorem product_upper (a b : Word) : sext32 a * sext32 b ≤ 4611686018427387904 := by
  have ha : |sext32 a| ≤ 2147483648 := abs_le.mpr ⟨sext32_lower a, (sext32_upper a).trans (by norm_num)⟩
  have hb : |sext32 b| ≤ 2147483648 := abs_le.mpr ⟨sext32_lower b, (sext32_upper b).trans (by norm_num)⟩
  calc sext32 a * sext32 b
    _ ≤ |sext32 a * sext32 b| := le_abs_self _
    _ = |sext32 a| * |sext32 b| := abs_mul _ _
    _ ≤ 2147483648 * 2147483648 := mul_le_mul ha hb (abs_nonneg _) (by norm_num)
    _ = 4611686018427387904 := by norm_num

/-! ## The accumulator (R103) -/

/-- The accumulator of two vectors of `n` elements is the sum of the `n` lane products. -/
theorem accumulate_lanes_eq_range {c w : List Word} {n : Nat} (hc : c.length = n) (hw : w.length = n) :
    accumulate (lanes c w) = ∑ k ∈ Finset.range n, sext32 (c.getD k 0#32) * sext32 (w.getD k 0#32) := by
  rw [accumulate_eq_sum, lanes_sum_range c w n hc hw]

/-- `n` times the least product bounds the accumulator below. -/
theorem accumulate_lanes_lower {c w : List Word} {n : Nat} (hc : c.length = n) (hw : w.length = n) :
    -(n * 4611686016279904256 : Int) ≤ accumulate (lanes c w) := by
  rw [accumulate_lanes_eq_range hc hw]
  have := Finset.card_nsmul_le_sum (Finset.range n) _ _ fun k _ => product_lower (c.getD k 0#32) (w.getD k 0#32)
  simpa using this

/-- `n` times the greatest product bounds the accumulator above. -/
theorem accumulate_lanes_upper {c w : List Word} {n : Nat} (hc : c.length = n) (hw : w.length = n) :
    accumulate (lanes c w) ≤ n * 4611686018427387904 := by
  rw [accumulate_lanes_eq_range hc hw]
  have := Finset.sum_le_card_nsmul (Finset.range n) _ _ fun k _ => product_upper (c.getD k 0#32) (w.getD k 0#32)
  simpa using this

/-- The greatest accumulator: every coefficient and every sample is `-2^31`. -/
theorem accumulate_lanes_replicate_least (n : Nat) :
    accumulate (lanes (List.replicate n 0x80000000#32) (List.replicate n 0x80000000#32)) = n * 4611686018427387904 := by
  have square : sext32 0x80000000#32 * sext32 0x80000000#32 = 4611686018427387904 := by decide
  rw [accumulate_eq_sum, lanes, List.zipWith_replicate', square, List.sum_replicate, nsmul_eq_mul]

/-! ## The exact width (R8) -/

theorem accWidthExact_eq (n : Nat) : Config.accWidthExact n = Nat.log2 n + 64 := by
  simp only [Config.accWidthExact, Config.sampleWidth, Config.bitlen]
  omega

/-- `n * 2^62` is below `2^(ACC_W_EXACT - 1)`, since `n < 2^bitlen(n)`. -/
theorem mul_lt_two_pow_accWidthExact (n : Nat) :
    (n * 4611686018427387904 : Int) < 2 ^ (Config.accWidthExact n - 1) := by
  have bit : (n : Int) < 2 ^ (Nat.log2 n + 1) := by exact_mod_cast Nat.lt_log2_self
  have width : Config.accWidthExact n - 1 = (Nat.log2 n + 1) + 62 := by rw [accWidthExact_eq]; omega
  rw [width, pow_add]
  linarith

/-- `n * 2^62` reaches `2^(ACC_W_EXACT - 2)`, since `2^(bitlen(n) - 1) ≤ n`. -/
theorem two_pow_accWidthExact_le_mul {n : Nat} (hn : 1 ≤ n) :
    (2 ^ (Config.accWidthExact n - 2) : Int) ≤ n * 4611686018427387904 := by
  have bit : (2 ^ Nat.log2 n : Int) ≤ n := by exact_mod_cast Nat.log2_self_le (by omega)
  have width : Config.accWidthExact n - 2 = Nat.log2 n + 62 := by rw [accWidthExact_eq]; omega
  rw [width, pow_add]
  linarith

/-- Every accumulator of `n` products fits a signed integer of `ACC_W_EXACT` bits. -/
theorem accumulate_lanes_fits {c w : List Word} {n : Nat} (hc : c.length = n) (hw : w.length = n) :
    -(2 ^ (Config.accWidthExact n - 1) : Int) ≤ accumulate (lanes c w) ∧
      accumulate (lanes c w) < 2 ^ (Config.accWidthExact n - 1) := by
  have width := mul_lt_two_pow_accWidthExact n
  constructor
  · linarith [accumulate_lanes_lower hc hw]
  · exact (accumulate_lanes_upper hc hw).trans_lt width

/-- One bit less does not hold the greatest accumulator. -/
theorem exists_accumulate_not_fits {n : Nat} (hn : 1 ≤ n) :
    ∃ c w : List Word, c.length = n ∧ w.length = n ∧
      (2 ^ (Config.accWidthExact n - 2) : Int) ≤ accumulate (lanes c w) :=
  ⟨_, _, List.length_replicate, List.length_replicate,
    (two_pow_accWidthExact_le_mul hn).trans_eq (accumulate_lanes_replicate_least n).symm⟩

/-! ## The statements -/

/-- Settles O5, by the closed form of `narrow_32`, which fixes every integer in the signed range. -/
theorem wordConversionsAgree : Obligations.WordConversionsAgree :=
  ⟨word32_sext32,
    fun _ lower upper => ⟨(sext32_word32 _).trans (narrow32_eq_self lower upper), narrow32_eq_self lower upper⟩,
    narrow32_eq_emod, toNat_word32⟩

/-- Settles O36: the bounds are `n` times those of one product (R102), and `2^(bitlen(n) - 1) ≤ n < 2^bitlen(n)` makes the
width sufficient and the least. -/
theorem accumulatorIsExactAndItsWidthIsTheLeast : Obligations.AccumulatorIsExactAndItsWidthIsTheLeast := by
  refine ⟨fun c w n _ hc hw => ?_, fun n hn => exists_accumulate_not_fits hn, ?_⟩
  · exact ⟨accumulate_lanes_eq_range hc hw, accumulate_lanes_lower hc hw, accumulate_lanes_upper hc hw,
      accumulate_lanes_fits hc hw⟩
  · decide

/-- Settles O8, by the law of a step whose waiting packet is a command. -/
theorem stepRunsTheDecodedCommand : Obligations.StepRunsTheDecodedCommand :=
  fun _ _ _ _ waiting decodes => step_of_ok waiting decodes

end Sys2Proof.Machine
end

section
/-!
PROOFS. The statements of `10_state.md`: the state at the start of a session (R31), the invariant that every step keeps (R26, R32),
and the one fault, which is met only outside it (assumption 10).
-/

namespace Sys2Proof.Machine

/-! ## The start of a session (R31) -/

/-- The state at the start of a session meets the invariant: the window has its `N` zeros, the store holds no value. -/
theorem inv_resetWith {n : Nat} (least : Config.minTaps ≤ n) (most : n ≤ Config.maxTaps) : (State.resetWith n).Inv where
  taps_pos := least
  taps_le := most
  sr_length := List.length_replicate
  coef_length := by simp
  uninitialized_iff := by simp

/-! ## What every command and every step keeps (R26, R32) -/

/-- What a command may do to the engine before it answers: nothing, clear the window, replace the whole store, or push a
sample while configured (R126). -/
theorem exec_next_engine {i : Instr} {s t : State} (answers : exec i s = .next t) :
    ∃ r u, t = answer r u ∧
      (u = s ∨ u = srClear s ∨
        (∃ c, c.length = s.taps ∧ u = (s.setCoef c).setCtrl .coefficientsLoaded) ∨
        ∃ x, s.ctrl ≠ .uninitialized ∧ u = (srPush x s).setCtrl .streaming) := by
  obtain ⟨_, rfl⟩ | ⟨c, _, length, rfl⟩ | ⟨_, _, _, rfl⟩ | ⟨_, _, _, rfl⟩ | ⟨x, _, _, configured, _, rfl⟩ | ⟨_, _, _, rfl⟩ |
    ⟨_, _, _, _, rfl⟩ | ⟨_, _, _, _, _, _, _, _, rfl⟩ | ⟨_, rfl⟩ := exec_next_cases answers
  case inr.inl => exact ⟨_, _, rfl, .inr (.inr (.inl ⟨c, length, rfl⟩))⟩
  case inr.inr.inr.inr.inl => exact ⟨_, _, rfl, .inr (.inr (.inr ⟨x, configured, rfl⟩))⟩
  case inl => exact ⟨_, _, rfl, .inr (.inl rfl)⟩
  all_goals exact ⟨_, _, rfl, .inl rfl⟩

theorem exec_keeps_inv {i : Instr} {s t : State} (h : s.Inv) (answers : exec i s = .next t) : t.Inv := by
  obtain ⟨r, _, rfl, rfl | rfl | ⟨c, length, rfl⟩ | ⟨x, configured, rfl⟩⟩ := exec_next_engine answers
  · exact inv_answer r h
  · exact inv_answer r (inv_srClear h)
  · exact inv_answer r (inv_load h length)
  · exact inv_answer r (inv_push x h configured)

/-- No command writes `N`, in any state (R6). -/
theorem exec_keeps_taps {i : Instr} {s t : State} (answers : exec i s = .next t) : t.taps = s.taps := by
  obtain ⟨_, _, rfl, rfl | rfl | ⟨_, _, rfl⟩ | ⟨_, _, rfl⟩⟩ := exec_next_engine answers <;> rfl

theorem step_keeps_inv {s t : State} (h : s.Inv) (taken : step s = .next t) : t.Inv := by
  obtain ⟨_, rfl⟩ | ⟨_, rest, _, _, _, rfl⟩ | ⟨_, rest, _, _, _, answers⟩ := step_next_cases taken
  · exact h
  · exact inv_answer _ (inv_commands rest h)
  · exact exec_keeps_inv (inv_commands rest h) answers

theorem step_keeps_taps {s t : State} (taken : step s = .next t) : t.taps = s.taps := by
  obtain ⟨_, rfl⟩ | ⟨_, _, _, _, _, rfl⟩ | ⟨_, _, _, _, _, answers⟩ := step_next_cases taken
  · rfl
  · rfl
  · exact (exec_keeps_taps answers :)

/-! ## Where a command stops (assumption 10) -/

/-- A configured engine that lacks the stored element the command reads. -/
def State.LacksElement (i : Instr) (s : State) : Prop :=
  s.ctrl ≠ .uninitialized ∧
    ((∃ x, i = .process x) ∧ s.coef = none ∨ ∃ k, i = .tap k ∧ k < s.taps ∧ memRead .coef k s = none)

theorem execTap_absent {k : Nat} {s : State} (configured : s.ctrl ≠ .uninitialized) (inRange : k < s.taps)
    (absent : memRead .coef k s = none) : execTap k s = .fault .coefficientAbsent := by
  simp [execTap, configured, Nat.not_le.2 inRange, absent]

theorem execTap_present {k : Nat} {s : State} {v : Word} (configured : s.ctrl ≠ .uninitialized) (inRange : k < s.taps)
    (present : memRead .coef k s = some v) : execTap k s = .next (answer ⟨.ok, [v]⟩ s) := by
  simp [execTap, configured, Nat.not_le.2 inRange, present, respond]

/-- A command that reads no absent element answers. -/
theorem exec_next_of_not_lacksElement {i : Instr} {s : State} (h : ¬ s.LacksElement i) : ∃ t, exec i s = .next t := by
  cases i with
  | reset => exact ⟨_, execReset_eq s⟩
  | window => exact ⟨_, execWindow_eq s⟩
  | load c =>
    by_cases length : c.length = s.taps
    · exact ⟨_, execLoad_ok length⟩
    · exact ⟨_, execLoad_mismatch length⟩
  | process x =>
    by_cases unconfigured : s.ctrl = .uninitialized
    · exact ⟨_, execProcess_unconfigured unconfigured⟩
    · cases store : s.coef with
      | none => exact absurd ⟨unconfigured, .inl ⟨⟨x, rfl⟩, store⟩⟩ h
      | some c => exact ⟨_, execProcess_configured unconfigured store⟩
  | tap k =>
    by_cases unconfigured : s.ctrl = .uninitialized
    · exact ⟨_, execTap_unconfigured unconfigured⟩
    · rcases Nat.lt_or_ge k s.taps with inRange | outOfRange
      · cases element : memRead .coef k s with
        | none => exact absurd ⟨unconfigured, .inr ⟨k, rfl, inRange, element⟩⟩ h
        | some v => exact ⟨_, execTap_present unconfigured inRange element⟩
      · exact ⟨_, execTap_out_of_range unconfigured outOfRange⟩

/-- A command that reads an absent element stops. -/
theorem exec_fault_of_lacksElement {i : Instr} {s : State} (h : s.LacksElement i) :
    exec i s = .fault .coefficientAbsent := by
  obtain ⟨configured, ⟨⟨_, rfl⟩, absent⟩ | ⟨_, rfl, inRange, absent⟩⟩ := h
  · exact execProcess_absent configured absent
  · exact execTap_absent configured inRange absent

theorem exec_fault_iff {i : Instr} {s : State} : exec i s = .fault .coefficientAbsent ↔ s.LacksElement i := by
  refine ⟨fun stops => ?_, exec_fault_of_lacksElement⟩
  by_contra h
  obtain ⟨t, answers⟩ := exec_next_of_not_lacksElement h
  simp [answers] at stops

/-- Every command has its meaning in every state. -/
theorem exec_ne_refused (i : Instr) (s : State) (r : Refusal) : exec i s ≠ .refused r := by
  by_cases h : s.LacksElement i
  · simp [exec_fault_of_lacksElement h]
  · obtain ⟨t, answers⟩ := exec_next_of_not_lacksElement h
    simp [answers]

/-! ## The statements -/

/-- Settles O54, by the field laws of the reset state; `N = 99` is the reference design. -/
theorem sessionStartsInTheResetState : Obligations.SessionStartsInTheResetState := by
  refine ⟨fun n least most => ⟨inv_resetWith least most, rfl, ?_, ?_, rfl, rfl⟩, rfl, rfl, ?_⟩
  · simp
  · intro i hi
    simp [hi]
  · exact inv_resetWith (by decide) (by decide)

/-- Settles O55: a step idles, rejects its packet or runs a command, and each of the three keeps the invariant and `N`. -/
theorem everyStepKeepsTheInvariant : Obligations.EveryStepKeepsTheInvariant :=
  ⟨fun _ _ h taken => ⟨step_keeps_inv h taken, step_keeps_taps taken⟩, fun _ => inv_resetWith⟩

/-- Settles O57: where the element is absent `PROCESS` and `TAP` stop, and everywhere else every command answers. -/
theorem faultOnlyWithoutTheStoredElement : Obligations.FaultOnlyWithoutTheStoredElement :=
  fun i s => ⟨exec_fault_iff, exec_ne_refused i s⟩

end Sys2Proof.Machine
end

section
/-!
PROOFS. The statements of `20_memory.md`: the elements of the two spaces (R40, R44), runs of packets answered in order (R48),
a `LOAD` seen by the very next commands (R50), and several engines (R52).
-/

namespace Sys2Proof.Machine

/-! ## The elements of the two spaces (R40, R44) -/

theorem memRead_sr_isSome_iff {k : Nat} {s : State} : (memRead .sr k s).isSome = true ↔ k < s.sr.length := by
  simp [memRead]

theorem memRead_coef_isSome_iff {k : Nat} {s : State} :
    (memRead .coef k s).isSome = true ↔ ∃ store, s.coef = some store ∧ k < store.length := by
  cases holds : s.coef <;> simp [memRead, holds]

/-- Within the invariant the store has its `N` elements in a configured engine, and none in any other. -/
theorem State.Inv.memRead_coef_isSome {s : State} (h : s.Inv) (k : Nat) :
    (memRead .coef k s).isSome = true ↔ s.ctrl ≠ .uninitialized ∧ k < s.taps := by
  rw [memRead_coef_isSome_iff]
  by_cases unconfigured : s.ctrl = .uninitialized
  · simp [h.absent unconfigured, unconfigured]
  · obtain ⟨store, holds, length⟩ := h.holds unconfigured
    simp [holds, length, unconfigured]

/-- Settles O33: the window has `N` elements, and so has the store of a configured engine. -/
theorem elementsExistExactlyBelowN : Obligations.ElementsExistExactlyBelowN :=
  fun _ k h => ⟨by rw [memRead_sr_isSome_iff, h.sr_length], h.memRead_coef_isSome k⟩

/-- Within the invariant every element a command reads is there. -/
theorem State.Inv.not_lacksElement {s : State} (h : s.Inv) (i : Instr) : ¬ s.LacksElement i := by
  rintro ⟨configured, ⟨_, absent⟩ | ⟨k, _, inRange, absent⟩⟩
  · exact configured (h.uninitialized_iff.2 absent)
  · have present := (h.memRead_coef_isSome k).2 ⟨configured, inRange⟩
    simp [absent] at present

/-! ## Packets waiting behind a command

No command reads or writes the list of waiting packets, so a packet that is issued alone and the same packet at the head of a
longer list do the same (R48; assumption 3). -/

/-- A command behaves alike whatever packets wait behind it. -/
theorem exec_withCommands {i : Instr} {s t : State} (cs : List Packet) (answers : exec i s = .next t) :
    exec i { s with commands := cs } = .next { t with commands := cs } := by
  obtain ⟨rfl, rfl⟩ | ⟨_, rfl, length, rfl⟩ | ⟨_, rfl, length, rfl⟩ | ⟨_, rfl, unconfigured, rfl⟩ |
    ⟨_, _, rfl, configured, holds, rfl⟩ | ⟨_, rfl, unconfigured, rfl⟩ | ⟨_, rfl, configured, outOfRange, rfl⟩ |
    ⟨_, _, _, rfl, configured, inRange, holds, element, rfl⟩ | ⟨rfl, rfl⟩ := exec_next_cases answers
  · exact execReset_eq _
  · exact execLoad_ok length
  · exact execLoad_mismatch length
  · exact execProcess_unconfigured unconfigured
  · exact execProcess_configured configured holds
  · exact execTap_unconfigured unconfigured
  · exact execTap_out_of_range configured outOfRange
  · exact execTap_in_range configured inRange holds element
  · exact execWindow_eq _

/-- A packet at the head of the queue is answered as if it had been issued alone. -/
theorem step_withCommands {p : Packet} {s t : State} (cs : List Packet) (taken : step (issueNext p s) = .next t) :
    step { s with commands := p :: cs } = .next { t with commands := cs } := by
  cases decoded : decode p with
  | error why =>
    rw [step_issueNext_error decoded] at taken
    cases taken
    exact step_of_error rfl decoded
  | ok i =>
    rw [step_issueNext_ok decoded] at taken
    rw [step_of_ok rfl decoded]
    exact (exec_withCommands cs taken :)

/-! ## Runs of packets (R48, R165) -/

theorem runPackets_cons_eq_some_iff {p : Packet} {rest : List Packet} {s t : State} :
    runPackets (p :: rest) s = some t ↔ ∃ u, step (issueNext p s) = .next u ∧ runPackets rest u = some t := by
  rw [runPackets]
  cases step (issueNext p s) <;> simp

/-- A run may be cut anywhere. -/
theorem runPackets_append (ps qs : List Packet) (s : State) :
    runPackets (ps ++ qs) s = (runPackets ps s).bind (runPackets qs) := by
  induction ps generalizing s with
  | nil => rfl
  | cons p ps ih =>
    rw [List.cons_append, runPackets, runPackets]
    cases step (issueNext p s) <;> simp [ih]

/-- A packet issued within the invariant takes a step, which keeps the invariant and the packets waiting behind it and
appends one response. -/
theorem step_issueNext_answers {s : State} (p : Packet) (h : s.Inv) :
    ∃ t q, step (issueNext p s) = .next t ∧ t.Inv ∧ t.commands = s.commands ∧ t.responses = s.responses ++ [q] := by
  cases decoded : decode p with
  | error why => exact ⟨_, _, step_issueNext_error decoded, inv_answer _ h, rfl, rfl⟩
  | ok i =>
    obtain ⟨t, answers⟩ := exec_next_of_not_lacksElement (h.not_lacksElement i)
    refine ⟨t, ?_⟩
    obtain ⟨r, _, rfl, rfl | rfl | ⟨_, _, rfl⟩ | ⟨_, _, rfl⟩⟩ := exec_next_engine answers
    all_goals exact ⟨encodeResponse r, (step_issueNext_ok decoded).trans answers, exec_keeps_inv h answers, rfl, rfl⟩

/-- A run within the invariant always ends, within the invariant, with one response per packet, in order. -/
theorem runPackets_answers (ps : List Packet) {s : State} (h : s.Inv) :
    ∃ t answers, runPackets ps s = some t ∧ t.Inv ∧ t.commands = s.commands ∧ answers.length = ps.length ∧
      t.responses = s.responses ++ answers := by
  induction ps generalizing s with
  | nil => exact ⟨s, [], rfl, h, rfl, rfl, (List.append_nil _).symm⟩
  | cons p ps ih =>
    obtain ⟨u, q, taken, hu, commands, first⟩ := step_issueNext_answers p h
    obtain ⟨t, answers, run, ht, commands', length, later⟩ := ih hu
    exact ⟨t, q :: answers, (runPackets_cons ps taken).trans run, ht, commands'.trans commands, by simp [length],
      by simp [later, first]⟩

theorem core_run_succ {s t : State} (k : Nat) (taken : step s = .next t) :
    Host.Core.run Sys2Proof.core (k + 1) s = Host.Core.run Sys2Proof.core k t := by
  have taken : Sys2Proof.core.step s = .next t := taken
  simp only [Host.Core.run, taken]

/-- The machine on a queue that starts with the packets of a run gives that run, and keeps the rest of the queue. -/
theorem core_run_of_runPackets {ps : List Packet} {s t : State} (cs : List Packet) (run : runPackets ps s = some t) :
    Host.Core.run Sys2Proof.core ps.length { s with commands := ps ++ cs } = .next { t with commands := cs } := by
  induction ps generalizing s with
  | nil =>
    cases run
    rfl
  | cons p ps ih =>
    obtain ⟨u, taken, run⟩ := runPackets_cons_eq_some_iff.1 run
    exact (core_run_succ ps.length (step_withCommands (ps ++ cs) taken)).trans (ih run)

/-- Settles O15, by induction on the packets: one response for each, and the machine on the queue takes the same steps. -/
theorem runsAnswerInCommandOrder : Obligations.RunsAnswerInCommandOrder := by
  rintro s ps qs _ h rfl
  obtain ⟨t, answers, run, ht, commands, length, responses⟩ := runPackets_answers ps h
  obtain ⟨u, _, later, _⟩ := runPackets_answers qs ht
  have whole : runPackets (ps ++ qs) s = some u := by rw [runPackets_append, run, Option.bind_some, later]
  have queue : Host.Core.run Sys2Proof.core ps.length { s with commands := ps ++ s.commands } = .next t := by
    rw [core_run_of_runPackets s.commands run, ← commands]
  exact ⟨t, u, answers, run, whole, later, length, responses, commands, queue⟩

/-! ## A `LOAD` and the commands after it (R50, R170) -/

/-- The decoder reads back every command the encoding can carry (R69). -/
theorem decode_encode {i : Instr} (wf : WellFormed i) : decode (encode i) = .ok i := by
  rw [encode, decode_headerWord]
  cases i with
  | tap k =>
    have : k < 4294967296 := of_decide_eq_true wf
    simp [Instr.opcode, Instr.payload, decodePayload, zext32, Nat.mod_eq_of_lt this]
  | _ => rfl

/-- A run goes on from the state its first command leaves. -/
theorem runPackets_encode_cons {i : Instr} {s t : State} (rest : List Packet) (wf : WellFormed i)
    (answers : exec i s = .next t) : runPackets (encode i :: rest) s = runPackets rest t :=
  runPackets_cons rest ((step_issueNext_ok (decode_encode wf)).trans answers)

/-- The elements of a pushed window: the sample, then the old window. -/
theorem getD_shiftIn {n j : Nat} (x : Word) (w : List Word) (inRange : j < n) :
    (shiftIn n x w).getD j 0#32 = (x :: w).getD j 0#32 := by
  obtain ⟨n, rfl⟩ : ∃ m, n = m + 1 := ⟨n - 1, by omega⟩
  have taken : shiftIn (n + 1) x w = (x :: w).take (n + 1) := rfl
  rw [taken, List.getD_eq_getElem?_getD, List.getElem?_take_of_lt inRange, ← List.getD_eq_getElem?_getD]

/-- The output of `PROCESS`, on the window before the push. -/
theorem sext32_dotProduct_shiftIn {c w : List Word} {n : Nat} (x : Word) (hn : 1 ≤ n) (hc : c.length = n)
    (hw : w.length = n) :
    sext32 (dotProduct c (shiftIn n x w)) =
      narrow32 (∑ j ∈ Finset.range n, sext32 (c.getD j 0#32) * sext32 ((x :: w).getD j 0#32)) := by
  rw [dotProduct_eq_range c _ n hc (length_shiftIn n x w hn hw), sext32_word32]
  congr 1
  refine Finset.sum_congr rfl fun j hj => ?_
  rw [getD_shiftIn x w (Finset.mem_range.1 hj)]

/-- Settles O51, by running the three commands one after the other: `TAP` and `PROCESS` find the new store, and the window is
still the old one when the sample is pushed. -/
theorem loadIsSeenByTheNextCommands : Obligations.LoadIsSeenByTheNextCommands := by
  intro s store k x h length inRange
  have indexFits : WellFormed (.tap k) := decide_eq_true (Nat.lt_succ_of_le (inRange.le.trans h.taps_le))
  have element : store[k]? = some (store.getD k 0#32) := by simp [length, inRange]
  rw [runPackets_encode_cons (i := .load store) _ rfl (execLoad_ok length),
    runPackets_encode_cons (i := .tap k) _ indexFits (execTap_in_range (by simp) (by exact inRange) (by rfl) element),
    runPackets_encode_cons (i := .process x) _ rfl (execProcess_configured (c := store) (by simp) (by rfl)),
    runPackets_nil]
  exact ⟨_, dotProduct store (shiftIn s.taps x s.sr), rfl, by simp [encodeResponse_ok],
    sext32_dotProduct_shiftIn x h.taps_pos length h.sr_length⟩

/-! ## Several engines (R52) -/

theorem stepSession_eq_some_iff {k : Nat} {engines after : Sessions} :
    stepSession k engines = some after ↔
      ∃ s t, engines[k]? = some s ∧ step s = .next t ∧ after = engines.set k t := by
  rw [stepSession]
  cases engines[k]? with
  | none => simp
  | some s => cases taken : step s <;> simp [taken, eq_comm]

/-- After a step of engine `i`, a step of engine `j` could as well have come first. -/
theorem stepSession_swap {i j : Nat} {engines middle after : Sessions} (distinct : i ≠ j)
    (first : stepSession i engines = some middle) (second : stepSession j middle = some after) :
    ∃ middle', stepSession j engines = some middle' ∧ stepSession i middle' = some after := by
  obtain ⟨s, s', hs, taken, rfl⟩ := stepSession_eq_some_iff.1 first
  obtain ⟨t, t', ht, taken', rfl⟩ := stepSession_eq_some_iff.1 second
  rw [List.getElem?_set_ne distinct] at ht
  refine ⟨engines.set j t', stepSession_eq_some_iff.2 ⟨t, t', ht, taken', rfl⟩,
    stepSession_eq_some_iff.2 ⟨s, s', ?_, taken, List.set_comm _ _ distinct⟩⟩
  rw [List.getElem?_set_ne distinct.symm, hs]

/-- Settles O60: a step of engine `i` sets element `i` of the list, and steps at two places can be swapped either way. -/
theorem sessionsDoNotInterfere : Obligations.SessionsDoNotInterfere := by
  intro engines i j distinct
  constructor
  · intro after h
    obtain ⟨_, _, _, _, rfl⟩ := stepSession_eq_some_iff.1 h
    exact ⟨List.getElem?_set_ne distinct, List.length_set⟩
  · ext after
    simp only [Option.bind_eq_some_iff]
    constructor
    · rintro ⟨_, first, second⟩
      exact stepSession_swap distinct first second
    · rintro ⟨_, first, second⟩
      exact stepSession_swap distinct.symm first second

end Sys2Proof.Machine
end

section
/-!
PROOFS. The statements of `30_encoding.md`: every packet gets one response and one next state (R70), no engine that a run reaches
ever stops, and a table word that decodes is what the next step runs (R61, R63).
-/

namespace Sys2Proof.Machine

/-! ## One next state and one response (R70) -/

/-- Within the invariant every command answers: it appends one response and leaves the waiting packets alone. -/
theorem State.Inv.exec_answers {s : State} (h : s.Inv) (i : Instr) :
    ∃ t r, exec i s = .next t ∧ t.commands = s.commands ∧ t.responses = s.responses ++ [encodeResponse r] := by
  obtain ⟨t, answers⟩ := exec_next_of_not_lacksElement (h.not_lacksElement i)
  refine ⟨t, ?_⟩
  obtain ⟨r, _, rfl, rfl | rfl | ⟨_, _, rfl⟩ | ⟨_, _, rfl⟩⟩ := exec_next_engine answers
  all_goals exact ⟨r, answers, rfl, rfl⟩

/-- Settles O11: a packet that does not decode is rejected, and one that does runs its command, which answers. -/
theorem everyPacketGetsExactlyOneResponse : Obligations.EveryPacketGetsExactlyOneResponse := by
  intro s p rest h waiting
  cases decoded : decode p with
  | error why =>
    exact ⟨_, ⟨.error .illegalCommand, []⟩, step_of_error waiting decoded, rfl, rfl, fun _ _ => ⟨rfl, rfl, rfl, rfl, rfl⟩,
      nofun⟩
  | ok i =>
    obtain ⟨t, r, answers, commands, responses⟩ := (inv_commands rest h).exec_answers i
    refine ⟨t, r, (step_of_ok waiting decoded).trans answers, commands, responses, nofun, ?_⟩
    rintro _ ⟨⟩
    exact answers

/-! ## Reachable engines -/

/-- Within the invariant every step answers a next state: with no packet it idles, and every packet is answered. -/
theorem State.Inv.step_next {s : State} (h : s.Inv) : ∃ t, step s = .next t := by
  cases waiting : s.commands with
  | nil => exact ⟨s, step_of_idle waiting⟩
  | cons p rest =>
    obtain ⟨t, _, taken, _⟩ := everyPacketGetsExactlyOneResponse s p rest h waiting
    exact ⟨t, taken⟩

/-- Every state a run reaches meets the invariant (R26, R32). -/
theorem State.Reachable.inv {s : State} (reached : s.Reachable) : s.Inv := by
  induction reached with
  | start n packets least most => exact inv_commands packets (inv_resetWith least most)
  | next s t _ taken h => exact step_keeps_inv h taken

/-- Settles O56: a reachable state meets the invariant, within which every step answers; its answer is reached by that step. -/
theorem reachableEnginesNeverStop : Obligations.ReachableEnginesNeverStop := by
  intro s reached
  obtain ⟨t, taken⟩ := reached.inv.step_next
  exact ⟨reached.inv, t, taken, .next s t reached taken⟩

/-! ## Words of the opcode table (R61, R63; assumption 7) -/

theorem decodeTableWord_eq_some_iff {nbits w : Nat} {i : Instr} :
    decodeTableWord nbits w = some i ↔ decode (tablePacket nbits w) = .ok i := by
  rw [decodeTableWord]
  cases decode (tablePacket nbits w) <;> simp

/-- Settles O9: the state holds the word's packet as the one just issued, and the packet decodes to the command. -/
theorem tableWordRunsInTheNextStep : Obligations.TableWordRunsInTheNextStep :=
  fun _ _ _ _ decodes => step_issueNext_ok (decodeTableWord_eq_some_iff.1 decodes)

end Sys2Proof.Machine
end

section
/-!
PROOFS. The statements of `40_coefficient_store.md`: the length check of `COEF_WRITE` (R80), the read of `TAP` (R81), the store
written only as a whole and only by `LOAD` (R82), and the reads that leave no trace in a run (R47).
-/

namespace Sys2Proof.Machine

/-! ## `COEF_WRITE` (R80) -/

/-- Settles O16, by the two cases of `COEF_WRITE`: each excludes the length of the other. -/
theorem coefWriteChecksLengthThenReplacesAll : Obligations.CoefWriteChecksLengthThenReplacesAll := by
  intro c s
  obtain ⟨mismatch, fails⟩ | ⟨length, writes⟩ := coefWrite_eq c s
  · exact ⟨fun _ => fails, fun length => absurd length mismatch⟩
  · exact ⟨fun mismatch => absurd length mismatch, fun _ => writes⟩

/-! ## `TAP` (R81) -/

/-- A configured engine within the invariant holds an element at every index below `N`. -/
theorem State.Inv.exists_element {s : State} (h : s.Inv) (configured : s.ctrl ≠ .uninitialized) {k : Nat}
    (inRange : k < s.taps) : ∃ store v, s.coef = some store ∧ store[k]? = some v := by
  obtain ⟨store, holds, length⟩ := h.holds configured
  exact ⟨store, store[k], holds, List.getElem?_eq_getElem (length ▸ inRange)⟩

/-- Settles O20, by the law of `TAP` for each of its three cases; within the invariant the element read is there. -/
theorem tapReadsOneCoefficient : Obligations.TapReadsOneCoefficient := by
  refine ⟨encode_tap, fun s i h => ⟨fun unconfigured => ?_, fun configured outOfRange => ?_, fun configured inRange => ?_⟩⟩
  · exact (execTap_unconfigured unconfigured).trans (by rw [answer, encodeResponse, status_header])
  · exact (execTap_out_of_range configured outOfRange).trans (by rw [answer, encodeResponse, status_header])
  · obtain ⟨store, v, holds, element⟩ := h.exists_element configured inRange
    refine ⟨store, v, holds, ?_, ?_⟩
    · obtain ⟨inStore, rfl⟩ := List.getElem?_eq_some_iff.1 element
      exact List.drop_eq_getElem_cons inStore
    · exact (execTap_in_range configured inRange holds element).trans (by rw [answer, encodeResponse_ok])

/-! ## Who writes the store (R82) -/

/-- A packet that decodes is the packet of its command (R69). -/
theorem encode_eq_of_decode {p : Packet} {i : Instr} (decoded : decode p = .ok i) : encode i = p := by
  obtain ⟨op, payload, rfl, legal⟩ := decode_ok_header decoded
  obtain ⟨rfl, rfl, rfl⟩ | ⟨rfl, rfl⟩ | ⟨x, rfl, rfl, rfl⟩ | ⟨w, rfl, rfl, rfl⟩ | ⟨rfl, rfl, rfl⟩ :=
    decodePayload_ok legal
  case inr.inr.inr.inl => simp [encode, Instr.opcode, Instr.payload, zext32]
  all_goals rfl

/-- A command that changes `COEF` is a `LOAD` of `N` coefficients, and they are the new store. -/
theorem exec_changes_coef {i : Instr} {s t : State} (answers : exec i s = .next t) (changed : t.coef ≠ s.coef) :
    ∃ c, i = .load c ∧ c.length = s.taps ∧ t.coef = some c := by
  obtain ⟨_, rfl⟩ | ⟨c, rfl, length, rfl⟩ | ⟨_, _, _, rfl⟩ | ⟨_, _, _, rfl⟩ | ⟨_, _, _, _, _, rfl⟩ | ⟨_, _, _, rfl⟩ |
    ⟨_, _, _, _, rfl⟩ | ⟨_, _, _, _, _, _, _, _, rfl⟩ | ⟨_, rfl⟩ := exec_next_cases answers
  case inr.inl => exact ⟨c, rfl, length, rfl⟩
  all_goals exact absurd rfl changed

/-- Settles O27: an idle step and a rejected packet leave the store, and of the commands only a `LOAD` of `N` coefficients
writes it. -/
theorem storeChangesOnlyAsAWhole : Obligations.StoreChangesOnlyAsAWhole := by
  intro s t taken changed
  obtain ⟨_, rfl⟩ | ⟨_, _, _, _, _, rfl⟩ | ⟨p, rest, i, waiting, decoded, answers⟩ := step_next_cases taken
  · exact absurd rfl changed
  · exact absurd rfl changed
  · obtain ⟨c, rfl, length, store⟩ := exec_changes_coef answers changed
    refine ⟨c, rest, ?_, length, store⟩
    rw [waiting, ← encode_eq_of_decode decoded, encode_load]

/-! ## Reads in a run (R47, R81, R92)

No command reads the record of responses (assumption 4), so what follows a read goes as it would go without it. -/

/-- A command appends one response, which does not depend on the responses before it, and neither does the engine it
leaves. -/
theorem exec_withResponses {i : Instr} {s t : State} (answers : exec i s = .next t) :
    ∃ q, t.responses = s.responses ++ [q] ∧
      ∀ rs, exec i { s with responses := rs } = .next { t with responses := rs ++ [q] } := by
  obtain ⟨rfl, rfl⟩ | ⟨_, rfl, length, rfl⟩ | ⟨_, rfl, length, rfl⟩ | ⟨_, rfl, unconfigured, rfl⟩ |
    ⟨_, _, rfl, configured, holds, rfl⟩ | ⟨_, rfl, unconfigured, rfl⟩ | ⟨_, rfl, configured, outOfRange, rfl⟩ |
    ⟨_, _, _, rfl, configured, inRange, holds, element, rfl⟩ | ⟨rfl, rfl⟩ := exec_next_cases answers
  · exact ⟨_, rfl, fun _ => execReset_eq _⟩
  · exact ⟨_, rfl, fun _ => execLoad_ok length⟩
  · exact ⟨_, rfl, fun _ => execLoad_mismatch length⟩
  · exact ⟨_, rfl, fun _ => execProcess_unconfigured unconfigured⟩
  · exact ⟨_, rfl, fun _ => execProcess_configured configured holds⟩
  · exact ⟨_, rfl, fun _ => execTap_unconfigured unconfigured⟩
  · exact ⟨_, rfl, fun _ => execTap_out_of_range configured outOfRange⟩
  · exact ⟨_, rfl, fun _ => execTap_in_range configured inRange holds element⟩
  · exact ⟨_, rfl, fun _ => execWindow_eq _⟩

theorem step_issueNext_withResponses {p : Packet} {s t : State} (taken : step (issueNext p s) = .next t) :
    ∃ q, t.responses = s.responses ++ [q] ∧
      ∀ rs, step (issueNext p { s with responses := rs }) = .next { t with responses := rs ++ [q] } := by
  cases decoded : decode p with
  | error why =>
    rw [step_issueNext_error decoded] at taken
    cases taken
    exact ⟨_, rfl, fun _ => step_issueNext_error decoded⟩
  | ok i =>
    rw [step_issueNext_ok decoded] at taken
    simp only [step_issueNext_ok decoded]
    exact exec_withResponses taken

/-- A run appends its answers, which do not depend on the responses before them, and neither does the engine it leaves. -/
theorem runPackets_withResponses {ps : List Packet} {s t : State} (run : runPackets ps s = some t) :
    ∃ answers, t.responses = s.responses ++ answers ∧
      ∀ rs, runPackets ps { s with responses := rs } = some { t with responses := rs ++ answers } := by
  induction ps generalizing s with
  | nil =>
    cases run
    exact ⟨[], by simp, by simp⟩
  | cons p ps ih =>
    obtain ⟨u, taken, later⟩ := runPackets_cons_eq_some_iff.1 run
    obtain ⟨q, first, alike⟩ := step_issueNext_withResponses taken
    obtain ⟨answers, others, alikeLater⟩ := ih later
    refine ⟨q :: answers, by simp [others, first], fun rs => ?_⟩
    rw [runPackets_cons ps (alike rs), alikeLater, ← List.append_cons]

/-- Within the invariant a `TAP` or a `WINDOW` does nothing but answer. -/
theorem State.Inv.exec_read {s : State} (h : s.Inv) {i : Instr} (reads : (∃ k, i = .tap k) ∨ i = .window) :
    ∃ r, exec i s = .next (answer r s) := by
  obtain ⟨k, rfl⟩ | rfl := reads
  · by_cases unconfigured : s.ctrl = .uninitialized
    · exact ⟨_, execTap_unconfigured unconfigured⟩
    · rcases Nat.lt_or_ge k s.taps with inRange | outOfRange
      · obtain ⟨_, _, holds, element⟩ := h.exists_element unconfigured inRange
        exact ⟨_, execTap_in_range unconfigured inRange holds element⟩
      · exact ⟨_, execTap_out_of_range unconfigured outOfRange⟩
  · exact ⟨_, execWindow_eq s⟩

/-- Settles O25: the run is cut at the read, which only answers, and the packets after it do not see that answer. -/
theorem readsCanBeDroppedFromAnyRun : Obligations.ReadsCanBeDroppedFromAnyRun := by
  intro s i before after h wf reads
  obtain ⟨u, first, run, hu, _, length, responses⟩ := runPackets_answers before h
  obtain ⟨r, answers⟩ := hu.exec_read reads
  obtain ⟨t', _, later, _⟩ := runPackets_answers after hu
  obtain ⟨second, responses', alike⟩ := runPackets_withResponses later
  have without : runPackets (before ++ after) s = some t' := by
    rw [runPackets_append, run, Option.bind_some, later]
  have withRead : runPackets (before ++ encode i :: after) s =
      some { t' with responses := u.responses ++ [encodeResponse r] ++ second } := by
    rw [runPackets_append, run, Option.bind_some, runPackets_encode_cons after wf answers]
    exact alike _
  exact ⟨_, t', first, second, r, withRead, without, ⟨rfl, rfl, rfl, rfl⟩, length, by rw [responses', responses],
    by rw [responses]⟩

end Sys2Proof.Machine
end

section
/-!
PROOFS. The statements of `41_shift_register.md`: the push (R90), the clear (R91), the read of `WINDOW` (R92), the contents after
a run of pushes (R94), and the two realisations of the push: element by element (R90) and in a ring buffer (R93).
-/

namespace Sys2Proof.Machine

/-! ## `SR_PUSH`, `SR_CLEAR` and `WINDOW` (R90, R91, R92) -/

/-- A push keeps the first `N` elements of the sample and the old window. -/
theorem shiftIn_eq_take {n : Nat} (hn : 1 ≤ n) (x : Word) (w : List Word) : shiftIn n x w = (x :: w).take n := by
  obtain ⟨m, rfl⟩ := Nat.exists_eq_add_of_le' hn
  rfl

/-- Settles O28: every index asked for is one that the push keeps. -/
theorem pushMovesEveryElementByOne : Obligations.PushMovesEveryElementByOne := by
  intro s x h
  refine ⟨length_shiftIn _ x _ h.taps_pos h.sr_length, rfl, fun i inRange => ?_, rfl, rfl⟩
  rw [srPush_sr, shiftIn_eq_take h.taps_pos, List.getElem?_take_of_lt inRange, List.getElem?_cons_succ]

/-- Settles O21, by the packet and the law of `WINDOW`. -/
theorem windowReturnsTheWholeWindow : Obligations.WindowReturnsTheWholeWindow := by
  refine ⟨encode_window, fun s => ?_⟩
  rw [← encodeResponse_ok]
  exact execWindow_eq s

/-- Settles O29: the cleared window depends on `N` alone, which a clear keeps. -/
theorem clearGivesTheFreshWindow : Obligations.ClearGivesTheFreshWindow := by
  refine fun s => ⟨rfl, rfl, fun i inRange => ?_, rfl, rfl⟩
  rw [srClear_sr, List.getElem?_replicate_of_lt inRange]

/-! ## A run of pushes (R94) -/

/-- A run of pushes keeps the first `N` elements of the samples, newest first, and the old window. -/
theorem foldl_shiftIn {n : Nat} (hn : 1 ≤ n) (xs : List Word) {w : List Word} (hw : w.length = n) :
    xs.foldl (fun v x => shiftIn n x v) w = (xs.reverse ++ w).take n := by
  induction xs generalizing w with
  | nil => exact (List.take_of_length_le hw.le).symm
  | cons x xs ih =>
    rw [List.foldl_cons, ih (length_shiftIn n x w hn hw), shiftIn_eq_take hn, List.reverse_cons, List.append_assoc,
      List.singleton_append, List.take_append, List.take_take, Nat.min_eq_left (Nat.sub_le ..), ← List.take_append]

/-- The window of an engine sees each push of a run; `N` stays the same. -/
theorem foldl_srPush_sr (xs : List Word) (s : State) :
    (xs.foldl (fun u x => srPush x u) s).sr = xs.foldl (fun w x => shiftIn s.taps x w) s.sr := by
  induction xs generalizing s with
  | nil => rfl
  | cons x xs ih => exact ih (srPush x s)

/-- Settles O30: position `k` is in the samples, newest first, or in the zeros behind them. -/
theorem windowAfterARunOfPushes : Obligations.WindowAfterARunOfPushes := by
  intro s xs k h inRange
  rw [foldl_srPush_sr, srClear_taps, srClear_sr, foldl_shiftIn h.taps_pos xs List.length_replicate,
    List.getElem?_take_of_lt inRange]
  split
  next pushed =>
    have there : xs.length - 1 - k < xs.length := by omega
    rw [List.getElem?_append_left (by simpa using pushed), List.getElem?_reverse pushed, List.getElem?_eq_getElem there,
      List.getD_eq_getElem _ _ there]
  next older =>
    rw [List.getElem?_append_right (by simpa using older), List.getElem?_replicate_of_lt (by omega)]

/-! ## The push element by element (R90) -/

/-- The copies from `i = m-1` down to `0`: positions `1` to `m` take the old elements `0` to `m-1`, the others stay. -/
theorem foldl_copyUp_downward (s : State) {m : Nat} (a : Word) {w : List Word} (hm : m ≤ w.length) :
    (List.range m).reverse.foldl (fun u i => copyUp i u) (s.setSr (a :: w)) =
      s.setSr (a :: ((a :: w).take m ++ w.drop m)) := by
  induction m generalizing w with
  | zero => rfl
  | succ m ih =>
    have there : m < (a :: w).length := Nat.lt_succ_of_lt hm
    have copied : copyUp m (s.setSr (a :: w)) = s.setSr (a :: w.set m (a :: w)[m]) := by
      have element : memRead .sr m (s.setSr (a :: w)) = some (a :: w)[m] := List.getElem?_eq_getElem there
      rw [copyUp, element]
      rfl
    have below : (a :: w.set m (a :: w)[m]).take m = (a :: w).take m := by
      rw [← List.set_cons_succ, List.take_set_of_le (Nat.le_succ m)]
    have above : (w.set m (a :: w)[m]).drop m = (a :: w)[m] :: w.drop (m + 1) := by
      rw [List.drop_eq_getElem_cons (by simpa using hm), List.getElem_set_self, List.drop_set_of_lt (Nat.lt_succ_self m)]
    rw [List.range_succ, List.reverse_append, List.reverse_singleton, List.singleton_append, List.foldl_cons, copied,
      ih (by simpa using Nat.le_of_succ_le hm), below, above,
      List.take_succ_eq_append_getElem there, List.append_assoc, List.singleton_append]

/-- From the oldest position down, the copies and the write of the sample are the atomic push. -/
theorem pushDownward_eq_srPush (x : Word) {s : State} (h : s.Inv) : pushDownward x s = srPush x s := by
  obtain ⟨a, w, window⟩ : ∃ a w, s.sr = a :: w :=
    List.exists_cons_of_length_pos (h.sr_length ▸ h.taps_pos)
  have last : s.taps - 1 = w.length := by rw [← h.sr_length, window]; rfl
  have self : s.setSr (a :: w) = s := by rw [← window]; rfl
  have copies := foldl_copyUp_downward s a (Nat.le_refl w.length)
  rw [self, List.drop_length, List.append_nil, ← window, ← last] at copies
  rw [pushDownward, copies]
  rfl

/-- Three positions of which the first alone is not zero: upward copies smear it over all of them. -/
def newestOnly : State := (State.resetWith 3).setSr [1#32, 0#32, 0#32]

theorem inv_newestOnly : newestOnly.Inv where
  taps_pos := by decide
  taps_le := by decide
  sr_length := rfl
  coef_length := nofun
  uninitialized_iff := by decide

/-- Settles O31: downward by induction on the number of copies; upward the windows are `[2, 1, 1]` and `[2, 1, 0]`. -/
theorem sequentialPushRunsDownward : Obligations.SequentialPushRunsDownward :=
  ⟨fun _ x h => pushDownward_eq_srPush x h, newestOnly, 2#32, inv_newestOnly, by decide⟩

/-! ## The ring buffer (R93) -/

/-- The cells behind a head moved back by one are those the old head showed, one position later. -/
theorem ring_index_succ {n : Nat} (hn : 1 ≤ n) (head i : Nat) :
    ((head + n - 1) % n + (i + 1)) % n = (head + i) % n := by
  rw [Nat.mod_add_mod, show head + n - 1 + (i + 1) = head + i + n by omega, Nat.add_mod_right]

/-- The overwritten cell is the oldest one: a window shows it at no position before its last. -/
theorem ring_index_ne_last {n i : Nat} (inRange : i < n - 1) (head : Nat) : (head + n - 1) % n ≠ (head + i) % n := by
  intro same
  have congruent : head + (n - 1) ≡ head + i [MOD n] := by rwa [← Nat.add_sub_assoc (by omega)]
  have := (Nat.ModEq.add_left_cancel' head congruent).eq_of_lt_of_lt (by omega) (by omega)
  omega

@[simp] theorem RingBuffer.length_view (r : RingBuffer) : r.view.length = r.cells.length := by simp [RingBuffer.view]

@[simp] theorem RingBuffer.length_cells_push (r : RingBuffer) (x : Word) : (r.push x).cells.length = r.cells.length :=
  List.length_set

/-- One push of a ring is one push of the window it shows. -/
theorem RingBuffer.view_push (r : RingBuffer) (x : Word) (hn : 1 ≤ r.cells.length) :
    (r.push x).view = shiftIn r.cells.length x r.view := by
  have positions : List.range r.cells.length = 0 :: (List.range (r.cells.length - 1)).map Nat.succ := by
    rw [← List.range_succ_eq_map, Nat.sub_add_cancel hn]
  have newest : (r.push x).cells.getD (((r.push x).head + 0) % r.cells.length) 0#32 = x := by
    have inside : (r.head + r.cells.length - 1) % r.cells.length < r.cells.length := Nat.mod_lt _ hn
    simp [RingBuffer.push, List.getD_eq_getElem?_getD, List.getElem?_set_self inside]
  have later : ∀ i ∈ List.range (r.cells.length - 1),
      (r.push x).cells.getD (((r.push x).head + (i + 1)) % r.cells.length) 0#32 =
        r.cells.getD ((r.head + i) % r.cells.length) 0#32 := by
    intro i shown
    have older := ring_index_ne_last (List.mem_range.1 shown) r.head
    simp only [RingBuffer.push, ring_index_succ hn, List.getD_eq_getElem?_getD, List.getElem?_set_ne older]
  calc (r.push x).view
      = x :: (List.range (r.cells.length - 1)).map fun i => r.cells.getD ((r.head + i) % r.cells.length) 0#32 := by
        rw [view, length_cells_push, positions, List.map_cons, newest, List.map_map, ← List.map_congr_left later]
        rfl
    _ = shiftIn r.cells.length x r.view := by
        rw [shiftIn, view, ← List.map_take, List.take_range, Nat.min_eq_left (Nat.sub_le ..)]

/-- A run of pushes of a ring is that run of pushes of the window it shows. -/
theorem RingBuffer.view_foldl_push (xs : List Word) (r : RingBuffer) (hn : 1 ≤ r.cells.length) :
    (xs.foldl (fun q x => q.push x) r).view = xs.foldl (fun w x => shiftIn r.cells.length x w) r.view := by
  induction xs generalizing r with
  | nil => rfl
  | cons x xs ih =>
    rw [List.foldl_cons, ih (r.push x) (by simpa using hn), r.length_cells_push, r.view_push x hn, List.foldl_cons]

theorem RingBuffer.length_cells_foldl_push (xs : List Word) (r : RingBuffer) :
    (xs.foldl (fun q x => q.push x) r).cells.length = r.cells.length := by
  induction xs generalizing r with
  | nil => rfl
  | cons x xs ih => exact (ih (r.push x)).trans (r.length_cells_push x)

/-- Settles O32, by induction on the pushes: no push changes the number of cells. -/
theorem ringBufferShowsTheSameWindow : Obligations.RingBufferShowsTheSameWindow := by
  rintro r xs n rfl inside
  have hn : 1 ≤ r.cells.length := Nat.one_le_of_lt inside
  exact ⟨r.view_foldl_push xs hn, by rw [RingBuffer.length_view, RingBuffer.length_cells_foldl_push]⟩

end Sys2Proof.Machine
end

section
/-!
PROOFS. The statements of `42_filter_core.md`: the lanes (R101, R102), `COMPUTE` (R100, R110), an accumulator out of range (R105),
any other accumulator of at least 32 bits (R106, R107), and the products at the extremes (R109).
-/

namespace Sys2Proof.Machine

/-! ## Registers of any width (R106) -/

/-- An `A`-bit register, `A ≥ 32`, read as a signed integer: the word that carries the integer is the register's low word. -/
theorem word32_toInt {width : Nat} (wide : 32 ≤ width) (v : BitVec width) : word32 v.toInt = v.setWidth 32 :=
  v.signExtend_eq_setWidth_of_le wide

/-- Wrapping to `A ≥ 32` bits first does not change the word that carries an integer, since `2^32` divides `2^A`. -/
theorem word32_toInt_ofInt {width : Nat} (wide : 32 ≤ width) (a : Int) : word32 (BitVec.ofInt width a).toInt = word32 a := by
  apply BitVec.eq_of_toInt_eq
  rw [word32, word32, BitVec.toInt_ofInt, BitVec.toInt_ofInt, BitVec.toInt_ofInt]
  exact Int.bmod_bmod_of_dvd (Nat.pow_dvd_pow 2 wide)

theorem setWidth_ofInt {width : Nat} (wide : 32 ≤ width) (a : Int) : (BitVec.ofInt width a).setWidth 32 = word32 a := by
  rw [← word32_toInt wide, word32_toInt_ofInt wide]

theorem narrow32_toInt_ofInt_add {width : Nat} (wide : 32 ≤ width) (a b : Int) :
    narrow32 ((BitVec.ofInt width a).toInt + (BitVec.ofInt width b).toInt) = narrow32 (a + b) := by
  simp only [narrow32, word32_add, word32_toInt_ofInt wide]

theorem narrow32_toInt_ofInt_mul {width : Nat} (wide : 32 ≤ width) (a b : Int) :
    narrow32 ((BitVec.ofInt width a).toInt * (BitVec.ofInt width b).toInt) = narrow32 (a * b) := by
  simp only [narrow32, word32_mul, word32_toInt_ofInt wide]

/-! ## Adder trees (R107) -/

/-- It makes no difference whether the operands are wrapped before the product is formed or the exact product is. -/
theorem laneProduct_eq_ofInt (width : Nat) (exactly : Bool) (c w : List Word) (k : Nat) :
    laneProduct width exactly c w k = BitVec.ofInt width (sext32 (c.getD k 0#32) * sext32 (w.getD k 0#32)) := by
  cases exactly
  · exact (BitVec.ofInt_mul ..).symm
  · rfl

/-- The low word of a tree's sum carries the exact sum of the products of its lanes. -/
theorem AdderTree.setWidth_sum {width : Nat} (wide : 32 ≤ width) (exactly : Bool) (c w : List Word) (t : AdderTree) :
    (t.sum width exactly c w).setWidth 32 =
      word32 (t.lanesUsed.map fun k => sext32 (c.getD k 0#32) * sext32 (w.getD k 0#32)).sum := by
  induction t with
  | zero => exact BitVec.setWidth_zero ..
  | lane k => rw [sum, laneProduct_eq_ofInt, setWidth_ofInt wide, lanesUsed, List.map_singleton, List.sum_singleton]
  | add l r ihl ihr =>
    rw [sum, BitVec.setWidth_add _ _ wide, ihl, ihr, lanesUsed, List.map_append, List.sum_append, word32_add]

/-- A tree that adds each of the `n` lanes once gives the engine's output. -/
theorem AdderTree.output_eq_dotProduct {width n : Nat} (wide : 32 ≤ width) (exactly : Bool) {c w : List Word} {t : AdderTree}
    (hc : c.length = n) (hw : w.length = n) (each : t.lanesUsed.Perm (List.range n)) :
    t.output width exactly c w = dotProduct c w := by
  calc t.output width exactly c w
    _ = (t.sum width exactly c w).setWidth 32 := by rw [output, narrow_eq_word32, word32_toInt wide]
    _ = word32 ((List.range n).map fun k => sext32 (c.getD k 0#32) * sext32 (w.getD k 0#32)).sum := by
        rw [t.setWidth_sum wide, (each.map _).sum_eq]
    _ = dotProduct c w := (dotProduct_eq_range c w n hc hw).symm

/-- A register of at most 31 bits holds nothing of `-2^31`. -/
theorem ofInt_least_of_narrow {width : Nat} (narrower : width < 32) : BitVec.ofInt width (-2147483648) = 0#width := by
  have multiple : ((2 ^ width : Nat) : Int) ∣ -2147483648 := by
    have : 2 ^ width ∣ 2 ^ 31 := pow_dvd_pow 2 (Nat.le_of_lt_succ narrower)
    exact Int.dvd_neg.2 (by exact_mod_cast this)
  apply BitVec.eq_of_toNat_eq
  rw [BitVec.toNat_ofInt, Int.emod_eq_zero_of_dvd multiple, BitVec.toNat_zero, Int.toNat_zero]

/-- The one lane `1 * (-2^31)` is lost in a register of less than 32 bits; the engine's output is `-2^31`. -/
theorem AdderTree.output_ne_dotProduct {width : Nat} (narrower : width < 32) (exactly : Bool) :
    (AdderTree.lane 0).output width exactly [1#32] [0x80000000#32] ≠ dotProduct [1#32] [0x80000000#32] := by
  have product : sext32 ([1#32].getD 0 0#32) * sext32 ([0x80000000#32].getD 0 0#32) = -2147483648 := by decide
  rw [output, sum, laneProduct_eq_ofInt, product, ofInt_least_of_narrow narrower, BitVec.toInt_zero]
  decide

/-- Settles O38: reduction to the low word is a ring homomorphism from any register of at least 32 bits, and by induction on
the tree it takes the wrapped sum to the exact one; a narrower register loses `1 * (-2^31)`. -/
theorem accumulatorWidthAndOrderDoNotShow : Obligations.AccumulatorWidthAndOrderDoNotShow :=
  ⟨fun _ _ exactly _ _ _ wide hc hw each => AdderTree.output_eq_dotProduct wide exactly hc hw each,
    fun _ a b wide => ⟨narrow32_toInt_ofInt_add wide a b, narrow32_toInt_ofInt_mul wide a b⟩,
    fun _ exactly narrower => ⟨_, _, rfl, rfl, AdderTree.output_ne_dotProduct narrower exactly⟩⟩

/-! ## `COMPUTE` (R100, R110) -/

theorem compute_of_holds {s : State} {c : List Word} (holds : s.coef = some c) : compute s = some (dotProduct c s.sr) := by
  rw [compute, holds, Option.map_some]

theorem compute_of_absent {s : State} (absent : s.coef = none) : compute s = none := by
  rw [compute, absent, Option.map_none]

/-- The output is zero where in every lane one of the two operands is. -/
theorem dotProduct_eq_zero {c w : List Word} {n : Nat} (hc : c.length = n) (hw : w.length = n)
    (zero : ∀ k < n, c.getD k 0#32 = 0#32 ∨ w.getD k 0#32 = 0#32) : dotProduct c w = 0#32 := by
  rw [dotProduct_eq_range c w n hc hw, Finset.sum_eq_zero]
  · rfl
  · intro k hk
    rcases zero k (Finset.mem_range.1 hk) with h | h
    · rw [h, sext32_zero, zero_mul]
    · rw [h, sext32_zero, mul_zero]

/-- Settles O34, by the closed form of the output; only `COEF` and `SR` are read. -/
theorem computeIsTheNarrowedDotProduct : Obligations.ComputeIsTheNarrowedDotProduct := by
  refine ⟨fun s c h => ⟨_, compute_of_holds h.holds, ?_, fun zeros => ?_⟩, fun s t sameCoef sameSr => ?_,
    fun _ => compute_of_absent⟩
  · rw [dotProduct_eq_range c s.sr s.taps h.length h.inv.sr_length, sext32_word32]
  · refine dotProduct_eq_zero h.length h.inv.sr_length fun k hk => ?_
    exact zeros.imp (fun all => all k hk) (fun all => all k hk)
  · rw [compute, compute, sameCoef, sameSr]

/-! ## The lanes (R101, R102) -/

theorem length_lanes {c w : List Word} {n : Nat} (hc : c.length = n) (hw : w.length = n) : (lanes c w).length = n := by
  rw [lanes, List.length_zipWith, hc, hw, Nat.min_self]

theorem getElem?_lanes {c w : List Word} {k : Nat} (hc : k < c.length) (hw : k < w.length) :
    (lanes c w)[k]? = some (sext32 (c.getD k 0#32) * sext32 (w.getD k 0#32)) := by
  simp [lanes, hc, hw]

/-- Settles O35, by the lanes as a list and the bounds of one product. -/
theorem laneProductsArePairedAndBounded : Obligations.LaneProductsArePairedAndBounded :=
  ⟨fun _ _ _ hc hw => ⟨length_lanes hc hw, fun _ hk => getElem?_lanes (hk.trans_eq hc.symm) (hk.trans_eq hw.symm)⟩,
    fun a b => ⟨product_lower a b, product_upper a b⟩⟩

/-! ## Overflow and the extremes (R105, R109) -/

/-- An integer out of the signed range is narrowed by a multiple of `2^32` that is not zero. -/
theorem narrow32_of_out_of_range {a : Int} (outside : a < -2147483648 ∨ 2147483647 < a) :
    ∃ m : Int, m ≠ 0 ∧ narrow32 a = a + m * 4294967296 := by
  refine ⟨-((a + 2147483648) / 4294967296), ?_, ?_⟩
  · omega
  · rw [narrow32_eq_emod]
    omega

/-- Settles O40, by the law of `PROCESS` in a configured engine, whose output is the narrowed sum whatever its size. -/
theorem overflowIsNoError : Obligations.OverflowIsNoError := by
  rintro s c x acc h rfl
  have output := sext32_dotProduct_shiftIn x h.inv.taps_pos h.length h.inv.sr_length
  refine ⟨dotProduct c (shiftIn s.taps x s.sr), ?_, output, fun outside => ?_⟩
  · rw [exec, execProcess_configured h.configured h.holds, answer, encodeResponse_ok]
    rfl
  · rw [output]
    exact narrow32_of_out_of_range outside

/-- Settles O39, by evaluating the closed form of `narrow_32`. -/
theorem extremeProductsNarrowAsListed : Obligations.ExtremeProductsNarrowAsListed := by
  simp only [Obligations.ExtremeProductsNarrowAsListed, sext32_narrow, narrow32_eq_emod]
  decide

end Sys2Proof.Machine
end

section
/-!
PROOFS. Streams of samples in closed form (`43_stream_controller.md` R124, R125, R127): the outputs and the engine that a stream leaves
in a configured state, each output as a sum over the coefficients, and `FILTER` as a stream into a cleared window.
-/

namespace Sys2Proof.Machine

/-! ## What a stream answers and leaves (R124) -/

/-- The outputs of an engine with `n` taps and the store `c` for a stream of samples, from the window `w`. -/
def streamOutputs (n : Nat) (c : List Word) : List Word → List Word → List Word
  | _, [] => []
  | w, x :: xs => dotProduct c (shiftIn n x w) :: streamOutputs n c (shiftIn n x w) xs

/-- The state that a configured engine with the store `c` is in after one `PROCESS`. -/
def State.afterProcess (c : List Word) (x : Word) (s : State) : State :=
  answer ⟨.ok, [dotProduct c (shiftIn s.taps x s.sr)]⟩ ((srPush x s).setCtrl .streaming)

/-- The state that a configured engine with the store `c` is in after a stream of samples. -/
def State.afterStream (c xs : List Word) (s : State) : State :=
  { s with
    sr := xs.foldl (fun w x => shiftIn s.taps x w) s.sr
    ctrl := if xs = [] then s.ctrl else .streaming
    responses := s.responses ++ (streamOutputs s.taps c s.sr xs).map fun y => [0x00000000#32, y] }

@[simp] theorem streamOutputs_nil (n : Nat) (c w : List Word) : streamOutputs n c w [] = [] := rfl

@[simp] theorem length_streamOutputs (n : Nat) (c w xs : List Word) : (streamOutputs n c w xs).length = xs.length := by
  induction xs generalizing w with
  | nil => rfl
  | cons x xs ih => rw [streamOutputs, List.length_cons, List.length_cons, ih]

/-- A stream goes on from the window that its first part leaves. -/
theorem streamOutputs_append (n : Nat) (c w xs zs : List Word) :
    streamOutputs n c w (xs ++ zs) =
      streamOutputs n c w xs ++ streamOutputs n c (xs.foldl (fun v x => shiftIn n x v) w) zs := by
  induction xs generalizing w with
  | nil => rfl
  | cons x xs ih => rw [List.cons_append, streamOutputs, streamOutputs, ih, List.cons_append, List.foldl_cons]

section Fields
variable (c xs : List Word) (s : State)

@[simp] theorem afterStream_taps : (s.afterStream c xs).taps = s.taps := rfl
@[simp] theorem afterStream_coef : (s.afterStream c xs).coef = s.coef := rfl
@[simp] theorem afterStream_sr :
    (s.afterStream c xs).sr = xs.foldl (fun w x => shiftIn s.taps x w) s.sr := rfl
@[simp] theorem afterStream_ctrl : (s.afterStream c xs).ctrl = if xs = [] then s.ctrl else .streaming := rfl
@[simp] theorem afterStream_responses : (s.afterStream c xs).responses =
    s.responses ++ (streamOutputs s.taps c s.sr xs).map fun y => [0x00000000#32, y] := rfl

@[simp] theorem afterStream_nil : s.afterStream c [] = s := by
  simp [State.afterStream]

/-- The first sample of a stream is one `PROCESS`. -/
theorem afterStream_cons (x : Word) : s.afterStream c (x :: xs) = (s.afterProcess c x).afterStream c xs := by
  simp [State.afterStream, State.afterProcess, streamOutputs, answer, encodeResponse_ok, srPush, State.setSr, State.setCtrl]

theorem afterStream_append (zs : List Word) :
    s.afterStream c (xs ++ zs) = (s.afterStream c xs).afterStream c zs := by
  cases zs with
  | nil => rw [List.append_nil, afterStream_nil]
  | cons z zs => simp [State.afterStream, streamOutputs_append]

theorem afterStream_configured {s : State} (configured : s.ctrl ≠ .uninitialized) :
    (s.afterStream c xs).ctrl ≠ .uninitialized := by
  rw [afterStream_ctrl]
  split
  · exact configured
  · nofun

end Fields

/-- `PROCESS` in a configured engine. -/
theorem exec_process_configured {s : State} {c : List Word} (x : Word) (configured : s.ctrl ≠ .uninitialized)
    (holds : s.coef = some c) : exec (.process x) s = .next (s.afterProcess c x) :=
  execProcess_configured configured holds

/-- `PROCESS_STREAM` in a configured engine: one output per sample, `OK`, and the state after the stream. -/
theorem processStream_configured {s : State} {c : List Word} (xs : List Word) (configured : s.ctrl ≠ .uninitialized)
    (holds : s.coef = some c) :
    processStream xs s = some (s.afterStream c xs, ⟨.ok, streamOutputs s.taps c s.sr xs⟩) := by
  induction xs generalizing s with
  | nil => rw [processStream, afterStream_nil, streamOutputs]
  | cons x xs ih =>
    have first : call (.process x) s = some (s.afterProcess c x, ⟨.ok, [dotProduct c (shiftIn s.taps x s.sr)]⟩) :=
      call_process x configured holds
    have later := ih (s := s.afterProcess c x) nofun holds
    simp only [processStream, first, later, afterStream_cons]
    rfl

/-- The packets that a stream expands to take a configured engine to the state after the stream. -/
theorem runPackets_expandProcessStream {s : State} {c : List Word} (xs : List Word)
    (configured : s.ctrl ≠ .uninitialized) (holds : s.coef = some c) :
    runPackets ((expandProcessStream xs).map encode) s = some (s.afterStream c xs) := by
  induction xs generalizing s with
  | nil => rw [afterStream_nil]; rfl
  | cons x xs ih =>
    have later := ih (s := s.afterProcess c x) nofun holds
    rw [afterStream_cons, ← later]
    exact runPackets_encode_cons _ rfl (exec_process_configured x configured holds)

/-- A stream that is not empty fails at its first sample while no `LOAD` has succeeded. -/
theorem processStream_unconfigured {s : State} {xs : List Word} (unconfigured : s.ctrl = .uninitialized)
    (nonempty : xs ≠ []) :
    processStream xs s = some (answer ⟨.error .notConfigured, []⟩ s, ⟨.error .notConfigured, []⟩) := by
  obtain ⟨x, rest, rfl⟩ := List.exists_cons_of_ne_nil nonempty
  simp [processStream, call_process_unconfigured x unconfigured]

/-! ## One output of a stream (R127) -/

/-- An output is the dot product with the window that the samples so far leave. -/
theorem getElem?_streamOutputs (n : Nat) (c w : List Word) {xs : List Word} {i : Nat} (sent : i < xs.length) :
    (streamOutputs n c w xs)[i]? =
      some (dotProduct c ((xs.take (i + 1)).foldl (fun v x => shiftIn n x v) w)) := by
  induction xs generalizing w i with
  | nil => simp at sent
  | cons x xs ih =>
    cases i with
    | zero => rfl
    | succ i => rw [streamOutputs, List.getElem?_cons_succ, ih _ (by simpa using sent), List.take_succ_cons, List.foldl_cons]

/-- `H[i-k]` of R127: the sample `k` places before sample `i`, which is in the stream or in the window `w` before it. -/
def history (xs w : List Word) (i k : Nat) : Word :=
  if k ≤ i then xs.getD (i - k) 0#32 else w.getD (k - i - 1) 0#32

/-- The window after sample `i` holds the history of that sample. -/
theorem getD_window_eq_history {n i k : Nat} {xs w : List Word} (hn : 1 ≤ n) (hw : w.length = n) (sent : i < xs.length)
    (inRange : k < n) :
    ((xs.take (i + 1)).foldl (fun v x => shiftIn n x v) w).getD k 0#32 = history xs w i k := by
  have pushed : (xs.take (i + 1)).reverse.length = i + 1 := by simp; omega
  rw [foldl_shiftIn hn _ hw, List.getD_eq_getElem?_getD, List.getElem?_take_of_lt inRange, history]
  split
  next recent =>
    rw [List.getElem?_append_left (by omega), List.getElem?_reverse (by simpa using by omega), List.length_take,
      List.getElem?_take_of_lt (by omega), List.getD_eq_getElem?_getD]
    congr 3
    omega
  next older =>
    rw [List.getElem?_append_right (by omega), pushed, List.getD_eq_getElem?_getD, Nat.sub_sub]

theorem length_foldl_shiftIn {n : Nat} (hn : 1 ≤ n) (xs : List Word) {w : List Word} (hw : w.length = n) :
    (xs.foldl (fun v x => shiftIn n x v) w).length = n := by
  rw [foldl_shiftIn hn xs hw, List.length_take, List.length_append, hw]
  omega

/-- The causal convolution law, from any window (R127). -/
theorem streamOutputs_eq_convolution {n i : Nat} {c w xs : List Word} (hn : 1 ≤ n) (hc : c.length = n) (hw : w.length = n)
    (sent : i < xs.length) :
    (streamOutputs n c w xs)[i]? =
      some (word32 (∑ k ∈ Finset.range n, sext32 (c.getD k 0#32) * sext32 (history xs w i k))) := by
  rw [getElem?_streamOutputs n c w sent, dotProduct_eq_range c _ n hc (length_foldl_shiftIn hn _ hw)]
  congr 2
  refine Finset.sum_congr rfl fun k hk => ?_
  rw [getD_window_eq_history hn hw sent (Finset.mem_range.1 hk)]

/-! ## `FILTER` (R125) -/

/-- The state in which `FILTER` sends its samples: the coefficients are loaded and the window is cleared. -/
def State.loadedAndCleared (c : List Word) (s : State) : State :=
  answer ⟨.ok, []⟩ (srClear (answer ⟨.ok, []⟩ ((s.setCoef c).setCtrl .coefficientsLoaded)))

/-- The outputs of `FILTER`: those of the stream into a window of zeros. -/
def filterOutputs (n : Nat) (c xs : List Word) : List Word := streamOutputs n c (List.replicate n 0#32) xs

@[simp] theorem length_filterOutputs (n : Nat) (c xs : List Word) : (filterOutputs n c xs).length = xs.length :=
  length_streamOutputs ..

/-- `FILTER` of `N` coefficients succeeds in every state, and its outputs depend on `N`, coefficients and samples alone. -/
theorem filter_ok {s : State} {c : List Word} (xs : List Word) (length : c.length = s.taps) :
    filter c xs s = some ((s.loadedAndCleared c).afterStream c xs, ⟨.ok, filterOutputs s.taps c xs⟩) := by
  have stream := processStream_configured (s := s.loadedAndCleared c) (c := c) xs nofun rfl
  simp only [filter, call_load_ok length, call_reset]
  exact stream

/-- `FILTER` of any other number of coefficients ends with the refused `LOAD`. -/
theorem filter_mismatch {s : State} {c : List Word} (xs : List Word) (mismatch : c.length ≠ s.taps) :
    filter c xs s =
      some (answer ⟨.error .coefficientLengthMismatch, []⟩ s, ⟨.error .coefficientLengthMismatch, []⟩) := by
  simp [filter, call_load_mismatch mismatch]

theorem runPackets_expandFilter {s : State} {c : List Word} (xs : List Word) (length : c.length = s.taps) :
    runPackets ((expandFilter c xs).map encode) s = some ((s.loadedAndCleared c).afterStream c xs) := by
  rw [expandFilter, List.map_cons, List.map_cons, runPackets_encode_cons (i := .load c) _ rfl (execLoad_ok length),
    runPackets_encode_cons (i := .reset) _ rfl (execReset_eq _)]
  exact runPackets_expandProcessStream (s := s.loadedAndCleared c) xs nofun rfl

/-- A sum over the lanes stops after lane `i` if all later lanes are zero. -/
theorem sum_range_eq_sum_range_min {n : Nat} (hn : 1 ≤ n) (i : Nat) {f : Nat → Int} (zero : ∀ k, i < k → f k = 0) :
    ∑ k ∈ Finset.range n, f k = ∑ k ∈ Finset.range (min i (n - 1) + 1), f k := by
  refine (Finset.sum_subset (Finset.range_subset_range.2 (by omega)) fun k below above => zero k ?_).symm
  simp only [Finset.mem_range] at below above
  omega

theorem getD_replicate_zero (n k : Nat) : (List.replicate n 0#32).getD k 0#32 = 0#32 := by
  rw [List.getD_eq_getElem?_getD, List.getElem?_getD_replicate_default_eq]

/-- Before the stream into a cleared window there are zeros only. -/
theorem history_replicate_zero {xs : List Word} {n i k : Nat} (before : i < k) :
    history xs (List.replicate n 0#32) i k = 0#32 := by
  rw [history, if_neg (Nat.not_le.2 before), getD_replicate_zero]

/-- The causal convolution law after a clear (R127). -/
theorem filterOutputs_eq_convolution {n i : Nat} {c xs : List Word} (hn : 1 ≤ n) (hc : c.length = n)
    (sent : i < xs.length) :
    (filterOutputs n c xs)[i]? = some (word32 (∑ k ∈ Finset.range (min i (n - 1) + 1),
      sext32 (c.getD k 0#32) * sext32 (xs.getD (i - k) 0#32))) := by
  rw [filterOutputs, streamOutputs_eq_convolution hn hc List.length_replicate sent, sum_range_eq_sum_range_min hn i]
  · congr 2
    refine Finset.sum_congr rfl fun k hk => ?_
    rw [history, if_pos]
    have := Finset.mem_range.1 hk
    omega
  · intro k before
    rw [history_replicate_zero before, sext32_zero, mul_zero]

end Sys2Proof.Machine
end

section
/-!
PROOFS. What the statements about streams turn on besides the closed form: linearity of the outputs (`43_stream_controller.md` R131),
outputs that are zero (R132), who writes what (R126), and runs of commands with no `LOAD` among them (R128).
-/

namespace Sys2Proof.Machine

/-! ## Linearity (R106, R131)

On words, wrapping sums and products are those of the ring `BitVec 32`, over which the output is linear in the window. -/

theorem word32_sext32_add (x z : Word) : word32 (sext32 x + sext32 z) = x + z := by
  rw [word32_add, word32_sext32, word32_sext32]

theorem word32_mul_sext32 (a : Int) (x : Word) : word32 (a * sext32 x) = word32 a * x := by
  rw [word32_mul, word32_sext32]

@[simp] theorem dotProduct_nil_left (w : List Word) : dotProduct [] w = 0#32 := rfl

@[simp] theorem dotProduct_nil_right (c : List Word) : dotProduct c [] = 0#32 := by
  rw [dotProduct, lanes_nil_right]
  rfl

/-- The output as a sum of words. -/
@[simp] theorem dotProduct_cons (a : Word) (c : List Word) (x : Word) (w : List Word) :
    dotProduct (a :: c) (x :: w) = a * x + dotProduct c w := by
  simp [dotProduct, narrow_eq_word32, accumulate_eq_sum, word32_add, word32_mul]

theorem dotProduct_zipWith_add (c : List Word) {v w : List Word} (same : v.length = w.length) :
    dotProduct c (List.zipWith (· + ·) v w) = dotProduct c v + dotProduct c w := by
  induction c generalizing v w with
  | nil => rfl
  | cons a c ih =>
    cases v with
    | nil => rw [List.length_eq_zero_iff.1 same.symm]; simp
    | cons x v =>
      obtain ⟨z, w, rfl⟩ := List.exists_cons_of_length_eq_add_one same.symm
      rw [List.zipWith_cons_cons, dotProduct_cons, dotProduct_cons, dotProduct_cons, ih (by simpa using same)]
      ring

theorem dotProduct_map_mul (a : Word) (c w : List Word) : dotProduct c (w.map (a * ·)) = a * dotProduct c w := by
  induction c generalizing w with
  | nil => simp
  | cons b c ih =>
    cases w with
    | nil => simp
    | cons x w =>
      rw [List.map_cons, dotProduct_cons, dotProduct_cons, ih]
      ring

theorem length_shiftIn_congr {v w : List Word} (n : Nat) (x z : Word) (same : v.length = w.length) :
    (shiftIn n x v).length = (shiftIn n z w).length := by
  simp [shiftIn, same]

theorem shiftIn_zipWith_add (n : Nat) (x z : Word) (v w : List Word) :
    shiftIn n (x + z) (List.zipWith (· + ·) v w) = List.zipWith (· + ·) (shiftIn n x v) (shiftIn n z w) := by
  rw [shiftIn, shiftIn, shiftIn, List.zipWith_cons_cons, List.take_zipWith]

theorem shiftIn_map_mul (n : Nat) (a x : Word) (w : List Word) :
    shiftIn n (a * x) (w.map (a * ·)) = (shiftIn n x w).map (a * ·) := by
  rw [shiftIn, shiftIn, List.map_cons, List.map_take]

/-- Samples and windows added word by word give outputs added word by word. -/
theorem streamOutputs_zipWith_add (n : Nat) (c : List Word) {v w xs zs : List Word} (window : v.length = w.length)
    (same : xs.length = zs.length) :
    streamOutputs n c (List.zipWith (· + ·) v w) (List.zipWith (· + ·) xs zs) =
      List.zipWith (· + ·) (streamOutputs n c v xs) (streamOutputs n c w zs) := by
  induction xs generalizing v w zs with
  | nil => rfl
  | cons x xs ih =>
    obtain ⟨z, zs, rfl⟩ := List.exists_cons_of_length_eq_add_one same.symm
    have pushed := length_shiftIn_congr n x z window
    rw [List.zipWith_cons_cons, streamOutputs, streamOutputs, streamOutputs, List.zipWith_cons_cons, shiftIn_zipWith_add,
      dotProduct_zipWith_add c pushed, ih pushed (by simpa using same)]

/-- Samples and window scaled by one word give outputs scaled by it. -/
theorem streamOutputs_map_mul (n : Nat) (a : Word) (c w xs : List Word) :
    streamOutputs n c (w.map (a * ·)) (xs.map (a * ·)) = (streamOutputs n c w xs).map (a * ·) := by
  induction xs generalizing w with
  | nil => rfl
  | cons x xs ih =>
    rw [List.map_cons, streamOutputs, streamOutputs, List.map_cons, shiftIn_map_mul, dotProduct_map_mul, ih]

/-- `FILTER` of two streams added with wraparound is its two outputs added so. -/
theorem filterOutputs_add (n : Nat) (c : List Word) {xs zs : List Word} (same : xs.length = zs.length) :
    filterOutputs n c (List.zipWith (fun x z => word32 (sext32 x + sext32 z)) xs zs) =
      List.zipWith (fun y w => word32 (sext32 y + sext32 w)) (filterOutputs n c xs) (filterOutputs n c zs) := by
  have zeros : List.replicate n 0#32 = List.zipWith (· + ·) (List.replicate n 0#32) (List.replicate n 0#32) := by
    rw [List.zipWith_replicate', BitVec.add_zero]
  simp only [word32_sext32_add]
  rw [filterOutputs, zeros, streamOutputs_zipWith_add n c rfl same]
  rfl

theorem getD_zipWith_word32_add {ys ws : List Word} {i : Nat} (left : i < ys.length) (right : i < ws.length) :
    (List.zipWith (fun y w => word32 (sext32 y + sext32 w)) ys ws).getD i 0#32 =
      word32 (sext32 (ys.getD i 0#32) + sext32 (ws.getD i 0#32)) := by
  simp [left, right]

/-- `FILTER` of a stream scaled with wraparound is its outputs scaled so. -/
theorem filterOutputs_scale (n : Nat) (a : Int) (c xs : List Word) :
    filterOutputs n c (xs.map fun x => word32 (a * sext32 x)) =
      (filterOutputs n c xs).map fun y => word32 (a * sext32 y) := by
  have zeros : List.replicate n 0#32 = (List.replicate n 0#32).map (word32 a * ·) := by
    rw [List.map_replicate, BitVec.mul_zero]
  simp only [word32_mul_sext32]
  rw [filterOutputs, zeros, streamOutputs_map_mul]
  rfl

/-! ## Outputs that are zero (R132) -/

/-- An output is zero where every coefficient or the sample it meets is. -/
theorem streamOutputs_eq_zero {n i : Nat} {c w xs : List Word} (hn : 1 ≤ n) (hc : c.length = n) (hw : w.length = n)
    (sent : i < xs.length) (zero : ∀ k < n, c.getD k 0#32 = 0#32 ∨ history xs w i k = 0#32) :
    (streamOutputs n c w xs)[i]? = some 0#32 := by
  rw [getElem?_streamOutputs n c w sent, dotProduct_eq_zero hc (length_foldl_shiftIn hn _ hw)]
  intro k inRange
  rw [getD_window_eq_history hn hw sent inRange]
  exact zero k inRange

theorem streamOutputs_eq_replicate_zero {n : Nat} {c w xs : List Word}
    (zero : ∀ i < xs.length, (streamOutputs n c w xs)[i]? = some 0#32) :
    streamOutputs n c w xs = List.replicate xs.length 0#32 := by
  refine List.ext_getElem? fun i => ?_
  rcases Nat.lt_or_ge i xs.length with sent | past
  · rw [zero i sent, List.getElem?_replicate_of_lt sent]
  · rw [List.getElem?_eq_none (by simpa using past), List.getElem?_eq_none (by simpa using past)]

/-- A sample of a stream of zeros, or before it in a window of zeros, is zero. -/
theorem history_of_zeros {len i k : Nat} {w : List Word} (zeros : k ≤ i ∨ w = List.replicate w.length 0#32) :
    history (List.replicate len 0#32) w i k = 0#32 := by
  rw [history]
  split
  next => exact getD_replicate_zero ..
  next older =>
    rw [zeros.resolve_left older]
    exact getD_replicate_zero ..

theorem filterOutputs_replicate_zero {n : Nat} {c : List Word} (hn : 1 ≤ n) (hc : c.length = n) (len : Nat) :
    filterOutputs n c (List.replicate len 0#32) = List.replicate len 0#32 := by
  rw [filterOutputs, streamOutputs_eq_replicate_zero, List.length_replicate]
  intro i sent
  exact streamOutputs_eq_zero hn hc List.length_replicate sent fun k _ =>
    .inr (history_of_zeros (.inr (by rw [List.length_replicate])))

/-! ## Who writes what (R126) -/

/-- A command that answers either writes nothing, or is answered `OK` and is one of the three writers. -/
theorem exec_next_writes {i : Instr} {s t : State} (answers : exec i s = .next t) :
    ∃ r u, t = answer r u ∧
      (u = s ∨ r.status = .ok ∧
        (i = .reset ∧ u = srClear s ∨
          (∃ c, i = .load c ∧ u = (s.setCoef c).setCtrl .coefficientsLoaded) ∨
          ∃ x, i = .process x ∧ u = (srPush x s).setCtrl .streaming)) := by
  obtain ⟨rfl, rfl⟩ | ⟨c, rfl, _, rfl⟩ | ⟨_, _, _, rfl⟩ | ⟨_, _, _, rfl⟩ | ⟨x, _, rfl, _, _, rfl⟩ | ⟨_, _, _, rfl⟩ |
    ⟨_, _, _, _, rfl⟩ | ⟨_, _, _, _, _, _, _, _, rfl⟩ | ⟨_, rfl⟩ := exec_next_cases answers
  case inl => exact ⟨_, _, rfl, .inr ⟨rfl, .inl ⟨rfl, rfl⟩⟩⟩
  case inr.inl => exact ⟨_, _, rfl, .inr ⟨rfl, .inr (.inl ⟨c, rfl, rfl⟩)⟩⟩
  case inr.inr.inr.inr.inl => exact ⟨_, _, rfl, .inr ⟨rfl, .inr (.inr ⟨x, rfl, rfl⟩)⟩⟩
  all_goals exact ⟨_, _, rfl, .inl rfl⟩

theorem exec_keeps_commands {i : Instr} {s t : State} (answers : exec i s = .next t) : t.commands = s.commands := by
  obtain ⟨_, _, rfl, rfl | ⟨_, ⟨_, rfl⟩ | ⟨_, _, rfl⟩ | ⟨_, _, rfl⟩⟩⟩ := exec_next_writes answers <;> rfl

theorem exec_keeps_coef {i : Instr} {s t : State} (answers : exec i s = .next t) (notLoad : ∀ c, i ≠ .load c) :
    t.coef = s.coef := by
  by_contra changed
  obtain ⟨c, load, _⟩ := exec_changes_coef answers changed
  exact notLoad c load

theorem exec_keeps_sr {i : Instr} {s t : State} (answers : exec i s = .next t) (notReset : i ≠ .reset)
    (notProcess : ∀ x, i ≠ .process x) : t.sr = s.sr := by
  obtain ⟨_, _, rfl, rfl | ⟨_, ⟨reset, _⟩ | ⟨_, _, rfl⟩ | ⟨x, process, _⟩⟩⟩ := exec_next_writes answers
  · rfl
  · exact absurd reset notReset
  · rfl
  · exact absurd process (notProcess x)

theorem exec_keeps_ctrl {i : Instr} {s t : State} (answers : exec i s = .next t) (notLoad : ∀ c, i ≠ .load c)
    (notProcess : ∀ x, i ≠ .process x) : t.ctrl = s.ctrl := by
  obtain ⟨_, _, rfl, rfl | ⟨_, ⟨_, rfl⟩ | ⟨c, load, _⟩ | ⟨x, process, _⟩⟩⟩ := exec_next_writes answers
  · rfl
  · rfl
  · exact absurd load (notLoad c)
  · exact absurd process (notProcess x)

/-- A command answered with an error writes nothing: the writers answer `OK`. -/
theorem exec_error_sameEngine {i : Instr} {s t : State} {kind : ErrorKind} {data : List Word}
    (answers : exec i s = .next t) (failed : t.responses = s.responses ++ [encodeResponse ⟨.error kind, data⟩]) :
    s.SameEngine t := by
  obtain ⟨r, u, rfl, rfl | ⟨ok, writes⟩⟩ := exec_next_writes answers
  · exact ⟨rfl, rfl, rfl, rfl⟩
  · have recorded : u.responses = s.responses := by
      obtain ⟨_, rfl⟩ | ⟨_, _, rfl⟩ | ⟨_, _, rfl⟩ := writes <;> rfl
    rw [answer_responses, recorded] at failed
    obtain rfl := encodeResponse_injective (List.singleton_inj.1 (List.append_cancel_left failed))
    cases ok

/-- A packet that decodes has none of the faults of R68. -/
theorem not_illegalPacket_of_decode {p : Packet} {i : Instr} (decoded : decode p = .ok i) : ¬ illegalPacket p := by
  obtain ⟨op, payload, rfl, legal⟩ := decode_ok_header decoded
  obtain ⟨rfl, rfl, _⟩ | ⟨rfl, _⟩ | ⟨x, rfl, rfl, _⟩ | ⟨w, rfl, rfl, _⟩ | ⟨rfl, rfl, _⟩ := decodePayload_ok legal <;>
    simp [illegalPacket, headerWord_value]

/-- A step on an illegal packet writes nothing but the response. -/
theorem step_illegal_sameEngine {s t : State} {p : Packet} {rest : List Packet} (waiting : s.commands = p :: rest)
    (illegal : illegalPacket p) (taken : step s = .next t) : s.SameEngine t := by
  cases decoded : decode p with
  | error why =>
    rw [step_of_error waiting decoded] at taken
    cases taken
    exact ⟨rfl, rfl, rfl, rfl⟩
  | ok i => exact absurd illegal (not_illegalPacket_of_decode decoded)

/-! ## Runs of commands (R128, R165) -/

/-- Within the invariant an engine that holds a vector is configured. -/
theorem State.Inv.configuredWith {s : State} {c : List Word} (h : s.Inv) (holds : s.coef = some c) : s.ConfiguredWith c where
  inv := h
  configured unconfigured := nomatch (h.absent unconfigured).symm.trans holds
  holds := holds

/-- The packet of a command is that of a command with the same opcode; the two differ only where the index of a `TAP` does not
fit its word (assumption 25). -/
theorem decode_encode_opcode (i : Instr) : ∃ j, decode (encode i) = .ok j ∧ j.opcode = i.opcode := by
  cases i <;> exact ⟨_, decode_headerWord _ _, rfl⟩

/-- A command but `LOAD` keeps the store, the number of taps and the configuration. -/
theorem State.ConfiguredWith.step_keeps {s : State} {c : List Word} (h : s.ConfiguredWith c) {i : Instr}
    (notLoad : i.opcode ≠ .load) :
    ∃ t, step (issueNext (encode i) s) = .next t ∧ t.ConfiguredWith c ∧ t.taps = s.taps := by
  obtain ⟨j, decoded, opcode⟩ := decode_encode_opcode i
  obtain ⟨t, answers⟩ := exec_next_of_not_lacksElement (h.inv.not_lacksElement j)
  have store : t.coef = s.coef := exec_keeps_coef answers fun _ load => notLoad (by rw [← opcode, load]; rfl)
  exact ⟨t, (step_issueNext_ok decoded).trans answers,
    (exec_keeps_inv h.inv answers).configuredWith (store.trans h.holds), exec_keeps_taps answers⟩

theorem streamKeepsCoefficients_cons {i : Instr} {rest : List Instr}
    (h : streamKeepsCoefficients (i :: rest) = true) : i.opcode ≠ .load ∧ streamKeepsCoefficients rest = true := by
  obtain ⟨first, later⟩ := Bool.and_eq_true_iff.1 h
  cases i with
  | load => cases first
  | _ => exact ⟨nofun, later⟩

/-- A run with no `LOAD` keeps the store, the number of taps and the configuration. -/
theorem State.ConfiguredWith.runPackets_keeps {commands : List Instr} {s : State} {c : List Word} (h : s.ConfiguredWith c)
    (keeps : streamKeepsCoefficients commands = true) :
    ∃ t, runPackets (commands.map encode) s = some t ∧ t.ConfiguredWith c ∧ t.taps = s.taps := by
  induction commands generalizing s with
  | nil => exact ⟨s, rfl, h, rfl⟩
  | cons i rest ih =>
    obtain ⟨notLoad, keepsRest⟩ := streamKeepsCoefficients_cons keeps
    obtain ⟨u, taken, hu, taps⟩ := h.step_keeps notLoad
    obtain ⟨t, run, ht, taps'⟩ := ih hu keepsRest
    exact ⟨t, (runPackets_cons _ taken).trans run, ht, taps'.trans taps⟩

/-- A run of two commands. -/
theorem runPackets_pair {i j : Instr} {s t u : State} (wf : WellFormed i) (wf' : WellFormed j) (first : exec i s = .next t)
    (second : exec j t = .next u) : runPackets [encode i, encode j] s = some u :=
  (runPackets_encode_cons _ wf first).trans (runPackets_encode_cons _ wf' second)

/-- `RESET` and a stream in a configured engine give the outputs of `FILTER` with the vector it holds. -/
theorem State.ConfiguredWith.reset_then_stream {s : State} {c : List Word} (h : s.ConfiguredWith c) (xs : List Word) :
    ∃ s1 t, call .reset s = some (s1, ⟨.ok, []⟩) ∧
      processStream xs s1 = some (t, ⟨.ok, filterOutputs s.taps c xs⟩) :=
  ⟨_, _, call_reset s, processStream_configured (s := answer ⟨.ok, []⟩ (srClear s)) xs h.configured h.holds⟩

end Sys2Proof.Machine
end

section
/-!
PROOFS. The statements of `43_stream_controller.md`: the pseudo-commands (R124, R125, R129), the convolution law and its consequences
(R127 to R133), the three writing commands and their frame (R121, R122, R123, R126), and the order of `LOAD` and `RESET` (R163).
-/

namespace Sys2Proof.Machine

/-! ## Streams and filters (R124 to R131) -/

/-- Settles O41, by the closed form of a stream; the state after a stream is that after its parts, one after the other. -/
theorem processStreamIsOneProcessPerSample : Obligations.ProcessStreamIsOneProcessPerSample := by
  intro s xs h
  refine ⟨rfl, fun unconfigured nonempty => ?_, fun configured => ?_, fun configured zs => ?_⟩
  · rw [processStream_unconfigured unconfigured nonempty, answer, encodeResponse, status_header]
  · obtain ⟨c, holds, _⟩ := h.holds configured
    exact ⟨_, _, processStream_configured xs configured holds, length_streamOutputs ..,
      runPackets_expandProcessStream xs configured holds, rfl⟩
  · obtain ⟨c, holds, _⟩ := h.holds configured
    refine ⟨_, _, _, _, processStream_configured xs configured holds,
      processStream_configured zs (afterStream_configured c xs configured) holds, ?_⟩
    rw [processStream_configured (xs ++ zs) configured holds, afterStream_append, streamOutputs_append]
    rfl

/-- Settles O42, by the closed form of `FILTER`, in which of the state before it only `N` and the responses occur. -/
theorem filterLoadsResetsAndStreams : Obligations.FilterLoadsResetsAndStreams := by
  intro s c xs h
  refine ⟨fun mismatch => ?_, fun length => ?_⟩
  · rw [filter_mismatch xs mismatch, answer, encodeResponse, status_header]
  · refine ⟨_, _, filter_ok xs length, length_filterOutputs .., runPackets_expandFilter xs length, rfl, rfl,
      foldl_shiftIn h.taps_pos xs List.length_replicate, rfl, fun other _ taps => ?_⟩
    have sameWindow : ((other.loadedAndCleared c).afterStream c xs).sr = ((s.loadedAndCleared c).afterStream c xs).sr := by
      change xs.foldl (fun w x => shiftIn other.taps x w) (List.replicate other.taps 0#32) = _
      rw [taps]
      rfl
    have again := filter_ok (s := other) xs (length.trans taps.symm)
    rw [taps] at again
    exact ⟨_, again, taps, rfl, sameWindow, rfl⟩

/-- Settles O43: output `i` is the dot product with the window that samples `0` to `i` leave, which holds their history. -/
theorem causalConvolutionLaw : Obligations.CausalConvolutionLaw := by
  refine ⟨fun s c xs h length => ⟨_, _, filter_ok xs length, length_filterOutputs .., fun i sent => ?_⟩,
    fun s c xs h => ⟨_, _, processStream_configured xs h.configured h.holds, length_streamOutputs .., fun i sent => ?_⟩⟩
  · rw [List.getD_eq_getElem?_getD, filterOutputs_eq_convolution h.taps_pos length sent, Option.getD_some, sext32_word32]
  · rw [List.getD_eq_getElem?_getD, streamOutputs_eq_convolution h.inv.taps_pos h.length h.inv.sr_length sent,
      Option.getD_some, sext32_word32]
    rfl

/-- Settles O44: the commands before keep store and `N`, and after `RESET` the outputs depend on these and the samples alone. -/
theorem resetAndReplayGivesTheSameOutputs : Obligations.ResetAndReplayGivesTheSameOutputs := by
  intro s c xs commands h keeps
  obtain ⟨u, run, hu, taps⟩ := h.runPackets_keeps keeps
  obtain ⟨s1, t, reset, stream⟩ := h.reset_then_stream xs
  obtain ⟨u1, t1, reset', replay⟩ := hu.reset_then_stream xs
  rw [taps] at replay
  exact ⟨u, s1, u1, t, t1, _, run, reset, stream, reset', replay⟩

/-- Settles O47: wrapping sums and products are the ring operations on words, over which the outputs are linear. -/
theorem filterIsLinear : Obligations.FilterIsLinear := by
  intro s c xs zs a h length same
  have sum := filter_ok (List.zipWith (fun x z => word32 (sext32 x + sext32 z)) xs zs) length
  have scaled := filter_ok (xs.map fun x => word32 (a * sext32 x)) length
  rw [filterOutputs_add s.taps c same] at sum
  rw [filterOutputs_scale] at scaled
  refine ⟨_, _, _, _, _, _, _, filter_ok xs length, filter_ok zs length, sum, rfl, fun i sent lower upper => ?_, scaled⟩
  rw [getD_zipWith_word32_add (by simpa using sent) (by simpa using same ▸ sent), sext32_word32,
    narrow32_eq_self lower upper]

/-! ## `PROCESS` and the frame of all commands (R123, R126) -/

/-- The sum over the lanes of a pushed window, with the lane of the sample apart. -/
theorem sum_range_cons_eq_sum_Icc {n : Nat} (hn : 1 ≤ n) (c : List Word) (x : Word) (w : List Word) :
    ∑ k ∈ Finset.range n, sext32 (c.getD k 0#32) * sext32 ((x :: w).getD k 0#32) =
      sext32 (c.getD 0 0#32) * sext32 x +
        ∑ k ∈ Finset.Icc 1 (n - 1), sext32 (c.getD k 0#32) * sext32 (w.getD (k - 1) 0#32) := by
  have lanes : Finset.Ico 1 n = Finset.Icc 1 (n - 1) := by
    ext k
    simp only [Finset.mem_Ico, Finset.mem_Icc]
    omega
  rw [Finset.range_eq_Ico, Finset.sum_eq_sum_Ico_succ_bot hn, lanes, List.getD_cons_zero]
  congr 1
  refine Finset.sum_congr rfl fun k hk => ?_
  obtain ⟨j, rfl⟩ := Nat.exists_eq_add_of_le' (Finset.mem_Icc.1 hk).1
  rfl

/-- Settles O19, by the two laws of `PROCESS`; the lane of the sample is taken out of the sum. -/
theorem processPushesThenComputes : Obligations.ProcessPushesThenComputes := by
  intro s x h
  refine ⟨encode_process x, fun unconfigured => ?_, fun configured => ?_⟩
  · exact (execProcess_unconfigured unconfigured).trans (by rw [answer, encodeResponse, status_header])
  · obtain ⟨c, holds, length⟩ := h.holds configured
    refine ⟨c, dotProduct c (shiftIn s.taps x s.sr), holds, ?_, ?_⟩
    · rw [exec_process_configured x configured holds, State.afterProcess, answer, encodeResponse_ok]
      rfl
    · rw [sext32_dotProduct_shiftIn x h.taps_pos length h.sr_length, sum_range_cons_eq_sum_Icc h.taps_pos]

/-- Settles O22: a command writes nothing, or is answered `OK` and is one of `RESET`, `LOAD` and `PROCESS`. -/
theorem onlyTheNamedCommandsWrite : Obligations.OnlyTheNamedCommandsWrite := by
  refine ⟨fun s t p rest => step_illegal_sameEngine, fun i s t answers => ?_⟩
  obtain ⟨q, recorded, _⟩ := exec_withResponses answers
  refine ⟨exec_keeps_taps answers, exec_keeps_commands answers, ⟨q, recorded⟩, fun notLoad => ?_,
    fun notReset notProcess => ?_, exec_keeps_ctrl answers, fun kind => exec_error_sameEngine answers⟩
  · have store := exec_keeps_coef answers notLoad
    exact ⟨store, fun k => by rw [memRead, memRead, store]⟩
  · have window := exec_keeps_sr answers notReset notProcess
    exact ⟨window, fun k => by rw [memRead, memRead, window]⟩

/-! ## Consequences of the convolution law (R130, R132, R133) -/

/-- Settles O46: in the convolution law output `i` meets the coefficients `0` to `i` alone. -/
theorem shortStreamsUseOnlyTheFirstCoefficients : Obligations.ShortStreamsUseOnlyTheFirstCoefficients := by
  intro s c c' xs h length length'
  refine ⟨_, _, _, _, filter_ok xs length, filter_ok xs length', length_filterOutputs .., length_filterOutputs ..,
    fun i sent agree => ?_, fun nonempty => ?_⟩
  · rw [filterOutputs_eq_convolution h.taps_pos length sent, filterOutputs_eq_convolution h.taps_pos length' sent]
    congr 2
    refine Finset.sum_congr rfl fun k hk => ?_
    have := Finset.mem_range.1 hk
    rw [agree k (by omega)]
  · rw [List.getD_eq_getElem?_getD,
      filterOutputs_eq_convolution h.taps_pos length (List.length_pos_iff.2 nonempty), Option.getD_some, sext32_word32,
      Nat.zero_min, Finset.sum_range_one]

/-- Settles O48: in every lane of the outputs named the sample or the coefficient is zero. -/
theorem zeroInputGivesZeroOutput : Obligations.ZeroInputGivesZeroOutput := by
  refine ⟨fun s c len h length => ?_, fun s c len h => ?_, fun s xs h => ?_⟩
  · have filtered := filter_ok (List.replicate len 0#32) length
    rw [filterOutputs_replicate_zero h.taps_pos length] at filtered
    exact ⟨_, filtered⟩
  · refine ⟨_, _, processStream_configured _ h.configured h.holds, by simp, fun i late sent => ?_⟩
    refine streamOutputs_eq_zero h.inv.taps_pos h.length h.inv.sr_length (by simpa using sent) fun k inRange => ?_
    exact .inr (history_of_zeros (.inl (by omega)))
  · have stream := processStream_configured xs h.configured h.holds
    rw [streamOutputs_eq_replicate_zero fun i sent => streamOutputs_eq_zero h.inv.taps_pos h.length h.inv.sr_length sent
      fun k _ => .inl (getD_replicate_zero ..)] at stream
    exact ⟨_, stream⟩

/-- The history of an impulse: the one at sample 0, and zeros after and before it. -/
theorem history_impulse (len n i k : Nat) :
    history (1#32 :: List.replicate len 0#32) (List.replicate n 0#32) i k = if k = i then 1#32 else 0#32 := by
  rcases Nat.lt_trichotomy k i with later | rfl | before
  · obtain ⟨j, hj⟩ := Nat.exists_eq_add_of_lt later
    rw [history, if_pos later.le, if_neg later.ne, show i - k = j + 1 by omega, List.getD_cons_succ, getD_replicate_zero]
  · rw [history, if_pos le_rfl, if_pos rfl, Nat.sub_self, List.getD_cons_zero]
  · rw [history_replicate_zero before, if_neg before.ne']

/-- Settles O49: the impulse meets coefficient `i` at output `i`, and a one meets each coefficient of the running sums. -/
theorem impulseAndStepResponses : Obligations.ImpulseAndStepResponses := by
  have one : sext32 1#32 = 1 := by decide
  refine ⟨fun s c len h length => ⟨_, _, filter_ok _ length, by simp, fun i le => ?_⟩,
    fun s c len h length => ⟨_, _, filter_ok _ length, by simp, fun i sent => ?_⟩⟩
  · have product (k : Nat) : sext32 (c.getD k 0#32) * sext32 (if k = i then 1#32 else 0#32) =
        if k = i then sext32 (c.getD k 0#32) else 0 := by
      split <;> simp [one]
    rw [filterOutputs, streamOutputs_eq_convolution h.taps_pos length List.length_replicate (by simpa using by omega)]
    simp only [history_impulse, product, Finset.sum_ite_eq', Finset.mem_range]
    split
    · rw [word32_sext32]
    · rfl
  · rw [List.getD_eq_getElem?_getD, filterOutputs_eq_convolution h.taps_pos length (by simpa using sent), Option.getD_some,
      sext32_word32]
    congr 1
    refine Finset.sum_congr rfl fun k _ => ?_
    rw [List.getD_replicate _ (by omega), one, mul_one]

/-! ## `LOAD`, `RESET` and empty streams (R121, R122, R129, R163, R168) -/

/-- Settles O52: the refused `LOAD` only answers, and `PROCESS` goes on with the earlier vector. -/
theorem failedReloadKeepsTheEarlierVector : Obligations.FailedReloadKeepsTheEarlierVector := by
  intro s c bad x h mismatch
  have alone := exec_process_configured x h.configured h.holds
  have later := exec_process_configured (s := answer ⟨.error .coefficientLengthMismatch, []⟩ s) x h.configured h.holds
  refine ⟨_, _, dotProduct c (shiftIn s.taps x s.sr), alone, ?_,
    runPackets_pair rfl rfl (execLoad_mismatch mismatch) later, ?_, ⟨rfl, rfl, rfl, rfl⟩⟩
  · simp [State.afterProcess, encodeResponse_ok]
  · simp [State.afterProcess, encodeResponse, status_header]

/-- Settles O17, by the two laws of `LOAD`. -/
theorem loadReplacesTheStoreOrIsRefused : Obligations.LoadReplacesTheStoreOrIsRefused := by
  refine fun c s => ⟨encode_load c, fun length => ?_, fun mismatch => ?_⟩
  · exact (execLoad_ok length).trans (by rw [answer, encodeResponse_ok]; rfl)
  · exact (execLoad_mismatch mismatch).trans (by rw [answer, encodeResponse, status_header])

/-- Settles O18, by the packet and the law of `RESET`. -/
theorem resetClearsTheHistoryOnly : Obligations.ResetClearsTheHistoryOnly := by
  refine ⟨encode_reset, fun s => ?_⟩
  rw [← encodeResponse_ok]
  exact execReset_eq s

/-- Settles O45: with no sample `FILTER` leaves the state in which it would send the first one. -/
theorem emptyStreamGivesNoOutput : Obligations.EmptyStreamGivesNoOutput :=
  fun _ _ => ⟨rfl, fun length => ⟨_, filter_ok [] length, rfl, rfl, rfl⟩⟩

/-- Settles O53: a `LOAD` of `N` coefficients writes store and label, `RESET` the window; any other `LOAD` writes nothing. -/
theorem loadAndResetCommute : Obligations.LoadAndResetCommute := by
  intro s c
  by_cases length : c.length = s.taps
  · exact ⟨_, _, runPackets_pair rfl rfl (execLoad_ok length) (execReset_eq _),
      runPackets_pair rfl rfl (execReset_eq _) (execLoad_ok (s := answer _ (srClear s)) length), ⟨rfl, rfl, rfl, rfl⟩⟩
  · exact ⟨_, _, runPackets_pair rfl rfl (execLoad_mismatch length) (execReset_eq _),
      runPackets_pair rfl rfl (execReset_eq _) (execLoad_mismatch (s := answer _ (srClear s)) length),
      ⟨rfl, rfl, rfl, rfl⟩⟩

end Sys2Proof.Machine
end

section
/-!
PROOFS. The statements of `60_exceptions.md`: the table of every command in every state (R120, R141), errors that change nothing
(R144) and leave no trace (R147), and the idle engine (R154).
-/

namespace Sys2Proof.Machine

/-! ## No command (R154, R165) -/

/-- Settles O10, by the law of the idle step (assumption 5). -/
theorem idleEngineHoldsItsState : Obligations.IdleEngineHoldsItsState :=
  fun _ => step_of_idle

/-! ## Errors (R144, R147) -/

/-- A command that answers is answered `OK`, or raises an error on the state it was given. -/
theorem exec_next_ok_or_error {i : Instr} {s t : State} (answers : exec i s = .next t) :
    (∃ u data, t = answer ⟨.ok, data⟩ u ∧ u.responses = s.responses) ∨ ∃ kind, t = answer ⟨.error kind, []⟩ s := by
  obtain ⟨_, rfl⟩ | ⟨_, _, _, rfl⟩ | ⟨_, _, _, rfl⟩ | ⟨_, _, _, rfl⟩ | ⟨_, _, _, _, _, rfl⟩ | ⟨_, _, _, rfl⟩ |
    ⟨_, _, _, _, rfl⟩ | ⟨_, _, _, _, _, _, _, _, rfl⟩ | ⟨_, rfl⟩ := exec_next_cases answers
  case inr.inr.inl | inr.inr.inr.inl | inr.inr.inr.inr.inr.inl | inr.inr.inr.inr.inr.inr.inl => exact .inr ⟨_, rfl⟩
  all_goals exact .inl ⟨_, _, rfl, rfl⟩

/-- What an answer adds to the recorded responses determines the response given. -/
theorem eq_of_answer_responses {s t : State} {r r' : Response} (recorded : t.responses = s.responses)
    (answered : (answer r t).responses = s.responses ++ [encodeResponse r']) : r = r' := by
  rw [answer_responses, recorded] at answered
  exact encodeResponse_injective (List.singleton_inj.1 (List.append_cancel_left answered))

/-- Settles O23: an illegal packet and every failed command are answered through `raise`, which has no data and writes nothing. -/
theorem errorsLeaveTheStateUnchanged : Obligations.ErrorsLeaveTheStateUnchanged := by
  intro s t p rest kind data waiting taken failed
  cases decoded : decode p with
  | error why =>
    rw [step_of_error waiting decoded] at taken
    cases taken
    cases eq_of_answer_responses (s := s) rfl failed
    exact ⟨rfl, rfl⟩
  | ok i =>
    rw [step_of_ok waiting decoded] at taken
    obtain ⟨_, _, rfl, recorded⟩ | ⟨_, rfl⟩ := exec_next_ok_or_error taken
    · cases eq_of_answer_responses recorded failed
    · cases eq_of_answer_responses (s := s) rfl failed
      exact ⟨rfl, rfl⟩

/-- Settles O24: the failed packet only adds its response (R144), and no later packet sees the responses before its own. -/
theorem errorsLeaveNoTrace : Obligations.ErrorsLeaveNoTrace := by
  intro s u p ps kind h taken failed
  obtain ⟨-, rfl⟩ := errorsLeaveTheStateUnchanged _ u p s.commands kind [] rfl taken failed
  obtain ⟨t', _, run, _⟩ := runPackets_answers ps h
  obtain ⟨answers, recorded, alike⟩ := runPackets_withResponses run
  have withFailed := (runPackets_cons ps taken).trans (alike _)
  exact ⟨_, t', answers, withFailed, run, ⟨rfl, rfl, rfl, rfl⟩, recorded, (List.append_cons ..).symm⟩

/-! ## The table (R120, R141) -/

/-- A packet that is taken and answered, and does nothing else, leaves the engine as it was. -/
theorem sameEngine_answer (r : Response) (rest : List Packet) (s : State) :
    s.SameEngine (answer r { s with commands := rest }) := ⟨rfl, rfl, rfl, rfl⟩

/-- Settles O12, row by row: the law of each command for each of its cases; within the invariant a configured engine holds the
elements that `PROCESS` and `TAP` read. -/
theorem everyCommandInEveryStateFollowsTheTable : Obligations.EveryCommandInEveryStateFollowsTheTable := by
  intro s p rest h waiting
  cases decoded : decode p with
  | error why => exact ⟨_, _, _, step_of_error waiting decoded, rfl, rfl, rfl, rfl, rfl, sameEngine_answer ..⟩
  | ok i =>
    rw [step_of_ok waiting decoded]
    cases i with
    | reset => exact ⟨_, _, _, execReset_eq _, rfl, rfl, rfl, rfl, rfl, rfl, rfl, rfl⟩
    | window => exact ⟨_, _, _, execWindow_eq _, rfl, rfl, rfl, rfl, h.sr_length, sameEngine_answer ..⟩
    | load c =>
      by_cases length : c.length = s.taps
      · simp only [if_pos length]
        exact ⟨_, _, _, execLoad_ok length, rfl, rfl, rfl, rfl, rfl, rfl, rfl, rfl⟩
      · simp only [if_neg length]
        exact ⟨_, _, _, execLoad_mismatch length, rfl, rfl, rfl, rfl, rfl, sameEngine_answer ..⟩
    | process x =>
      by_cases unconfigured : s.ctrl = .uninitialized
      · simp only [if_pos unconfigured]
        exact ⟨_, _, _, execProcess_unconfigured unconfigured, rfl, rfl, rfl, rfl, rfl, sameEngine_answer ..⟩
      · simp only [if_neg unconfigured]
        obtain ⟨_, holds, _⟩ := h.holds unconfigured
        exact ⟨_, _, _, execProcess_configured unconfigured holds, rfl, rfl, rfl, rfl, rfl, rfl, rfl, rfl⟩
    | tap k =>
      by_cases unconfigured : s.ctrl = .uninitialized
      · simp only [if_pos unconfigured]
        exact ⟨_, _, _, execTap_unconfigured unconfigured, rfl, rfl, rfl, rfl, rfl, sameEngine_answer ..⟩
      · simp only [if_neg unconfigured]
        rcases Nat.lt_or_ge k s.taps with inRange | outOfRange
        · simp only [if_neg (Nat.not_le.2 inRange)]
          obtain ⟨_, _, holds, element⟩ := h.exists_element unconfigured inRange
          exact ⟨_, _, _, execTap_in_range unconfigured inRange holds element, rfl, rfl, rfl, rfl, rfl, sameEngine_answer ..⟩
        · simp only [if_pos outOfRange]
          exact ⟨_, _, _, execTap_out_of_range unconfigured outOfRange, rfl, rfl, rfl, rfl, rfl, sameEngine_answer ..⟩

end Sys2Proof.Machine
end

section
/-!
PROOFS. The statement of `70_reset_and_hazards.md` about the command `RESET` and the reset event (R160, R161): nothing returns a
configured engine to `Uninitialized` (R120).
-/

namespace Sys2Proof.Machine

/-- No command unconfigures an engine: a label that is written is `CoefficientsLoaded` or `Streaming`. -/
theorem exec_keeps_configured {i : Instr} {s t : State} (configured : s.ctrl ≠ .uninitialized)
    (answers : exec i s = .next t) : t.ctrl ≠ .uninitialized := by
  obtain ⟨_, _, rfl, rfl | rfl | ⟨_, _, rfl⟩ | ⟨_, _, rfl⟩⟩ := exec_next_engine answers
  · exact configured
  · exact configured
  · exact nofun
  · exact nofun

theorem step_keeps_configured {s t : State} (configured : s.ctrl ≠ .uninitialized) (taken : step s = .next t) :
    t.ctrl ≠ .uninitialized := by
  obtain ⟨_, rfl⟩ | ⟨_, _, _, _, _, rfl⟩ | ⟨_, rest, _, _, _, answers⟩ := step_next_cases taken
  · exact configured
  · exact configured
  · exact exec_keeps_configured (s := { s with commands := rest }) configured answers

theorem runPackets_keeps_configured {ps : List Packet} {s t : State} (configured : s.ctrl ≠ .uninitialized)
    (run : runPackets ps s = some t) : t.ctrl ≠ .uninitialized := by
  induction ps generalizing s with
  | nil =>
    cases run
    exact configured
  | cons p ps ih =>
    obtain ⟨u, taken, later⟩ := runPackets_cons_eq_some_iff.1 run
    exact ih (step_keeps_configured (s := issueNext p s) configured taken) later

/-- Settles O58: the command clears `SR` alone and the event leaves the start of a session; a run within the invariant ends within
it, still configured, so `COEF` holds a value (R26). -/
theorem resetCommandIsNotTheResetEvent : Obligations.ResetCommandIsNotTheResetEvent := by
  refine ⟨fun s => ⟨_, execReset_eq s, rfl, rfl, rfl, rfl, rfl, rfl, rfl, rfl, rfl⟩, fun s ps h configured => ?_⟩
  obtain ⟨t, _, run, ht, _⟩ := runPackets_answers ps h
  have stays := runPackets_keeps_configured configured run
  exact ⟨t, run, stays, mt ht.uninitialized_iff.2 stays⟩

end Sys2Proof.Machine
end

section
/-!
PROOFS. The statements of `30_encoding.md` about the packets themselves: what the decoder accepts and the encoder writes (R63, R64,
R69), the illegal packets and their answer (R68), the status numbers (R67) and the order of the tests (`60_exceptions.md` R146).
-/

namespace Sys2Proof.Machine

/-! ## The five packets (R63, R64) -/

theorem decode_reset : decode [0x01000000#32] = .ok .reset := decode_headerWord .reset []

theorem decode_load (c : List Word) : decode (0x02000000#32 :: c) = .ok (.load c) := decode_headerWord .load c

theorem decode_process (x : Word) : decode [0x03000000#32, x] = .ok (.process x) := decode_headerWord .process [x]

theorem decode_tap (w : Word) : decode [0x04000000#32, w] = .ok (.tap w.toNat) := decode_headerWord .tap [w]

theorem decode_window : decode [0x05000000#32] = .ok .window := decode_headerWord .window []

/-- Whatever decodes is one of the five packets. -/
theorem decode_ok_cases {p : Packet} {i : Instr} (decoded : decode p = .ok i) :
    (p = [0x01000000#32] ∧ i = .reset) ∨
    (∃ c, p = 0x02000000#32 :: c ∧ i = .load c) ∨
    (∃ x, p = [0x03000000#32, x] ∧ i = .process x) ∨
    (∃ w, p = [0x04000000#32, w] ∧ i = .tap w.toNat) ∨
    (p = [0x05000000#32] ∧ i = .window) := by
  obtain ⟨op, payload, rfl, legal⟩ := decode_ok_header decoded
  obtain ⟨rfl, rfl, rfl⟩ | ⟨rfl, rfl⟩ | ⟨x, rfl, rfl, rfl⟩ | ⟨w, rfl, rfl, rfl⟩ | ⟨rfl, rfl, rfl⟩ :=
    decodePayload_ok legal
  · exact .inl ⟨rfl, rfl⟩
  · exact .inr (.inl ⟨payload, rfl, rfl⟩)
  · exact .inr (.inr (.inl ⟨x, rfl, rfl⟩))
  · exact .inr (.inr (.inr (.inl ⟨w, rfl, rfl⟩)))
  · exact .inr (.inr (.inr (.inr ⟨rfl, rfl⟩)))

/-- Every command read from a packet has its operands in range: an index is read from one word. -/
theorem wellFormed_of_decode {p : Packet} {i : Instr} (decoded : decode p = .ok i) : WellFormed i := by
  obtain ⟨_, rfl⟩ | ⟨_, _, rfl⟩ | ⟨_, _, rfl⟩ | ⟨w, _, rfl⟩ | ⟨_, rfl⟩ := decode_ok_cases decoded
  case inr.inr.inr.inl => exact decide_eq_true w.isLt
  all_goals rfl

/-- Settles O2: each of the five packets decodes to its command, whatever decodes is one of them, and the encoder writes the same
five. -/
theorem decodeAndEncodeAreInverse : Obligations.DecodeAndEncodeAreInverse := by
  refine ⟨fun p i => ⟨decode_ok_cases, ?_⟩, fun _ => decode_encode,
    fun _ _ decoded => ⟨wellFormed_of_decode decoded, encode_eq_of_decode decoded⟩⟩
  rintro (⟨rfl, rfl⟩ | ⟨c, rfl, rfl⟩ | ⟨x, rfl, rfl⟩ | ⟨w, rfl, rfl⟩ | ⟨rfl, rfl⟩)
  · exact decode_reset
  · exact decode_load c
  · exact decode_process x
  · exact decode_tap w
  · exact decode_window

/-- Settles O1, by the law of each of the five packets. -/
theorem tableHeaderWordsDecodeToTheirCommands : Obligations.TableHeaderWordsDecodeToTheirCommands :=
  ⟨decode_reset, decode_load _, decode_load _, decode_process _, decode_tap _, decode_tap _, decode_window⟩

/-- Settles O4: the signed reading is R64's by definition, and the operands are those of the five packets' laws. -/
theorem operandsAreAssembledAsWritten : Obligations.OperandsAreAssembledAsWritten :=
  ⟨fun _ => rfl, by decide, by decide, by decide, decode_load, decode_process, decode_tap⟩

/-! ## Status numbers and response packets (R65, R67) -/

theorem encodeResponse_coefficientLengthMismatch (data : List Word) :
    encodeResponse ⟨.error .coefficientLengthMismatch, data⟩ = 0x01000000#32 :: data :=
  congrArg (· :: data) (status_header (.error .coefficientLengthMismatch))

theorem encodeResponse_notConfigured (data : List Word) :
    encodeResponse ⟨.error .notConfigured, data⟩ = 0x02000000#32 :: data :=
  congrArg (· :: data) (status_header (.error .notConfigured))

theorem encodeResponse_indexOutOfRange (data : List Word) :
    encodeResponse ⟨.error .indexOutOfRange, data⟩ = 0x03000000#32 :: data :=
  congrArg (· :: data) (status_header (.error .indexOutOfRange))

theorem encodeResponse_illegalCommand (data : List Word) :
    encodeResponse ⟨.error .illegalCommand, data⟩ = 0x04000000#32 :: data :=
  congrArg (· :: data) (status_header (.error .illegalCommand))

/-- The status numbers are the five below 5. -/
theorem status_code_lt (status : Status) : status.code.toNat < 5 := by
  rcases status with _ | kind
  · decide
  · cases kind <;> decide

/-- Settles O6, by the packet of each status and the law that reads a response packet back. -/
theorem statusNumbersAndResponsePackets : Obligations.StatusNumbersAndResponsePackets := by
  refine ⟨fun data => ⟨encodeResponse_ok data, encodeResponse_coefficientLengthMismatch data,
    encodeResponse_notConfigured data, encodeResponse_indexOutOfRange data, encodeResponse_illegalCommand data⟩,
    decodeResponse_encodeResponse, ?_⟩
  rintro _ least status rfl
  exact absurd (status_code_lt status) (Nat.not_lt.2 least)

/-! ## Illegal packets (R68) -/

/-- A header number with an assigned opcode and an empty reserved field is a header word. -/
theorem exists_headerWord_of_toNat {h : Word} (least : 1 ≤ h.toNat / 16777216) (most : h.toNat / 16777216 < 6)
    (reserved : h.toNat % 16777216 = 0) : ∃ op, h = headerWord op := by
  have number : h.toNat = h.toNat / 16777216 * 16777216 := by omega
  generalize h.toNat / 16777216 = opcode at least most number
  interval_cases opcode
  · exact ⟨.reset, BitVec.eq_of_toNat_eq number⟩
  · exact ⟨.load, BitVec.eq_of_toNat_eq number⟩
  · exact ⟨.process, BitVec.eq_of_toNat_eq number⟩
  · exact ⟨.tap, BitVec.eq_of_toNat_eq number⟩
  · exact ⟨.window, BitVec.eq_of_toNat_eq number⟩

/-- A packet that meets none of the cases of R68 is a command. -/
theorem exists_decode_of_not_illegalPacket {p : Packet} (legal : ¬ illegalPacket p) : ∃ i, decode p = .ok i := by
  cases p with
  | nil => exact absurd trivial legal
  | cons h payload =>
    simp only [illegalPacket, not_or, not_and, not_not] at legal
    obtain ⟨assigned, most, reserved, noPayload, onePayload⟩ := legal
    obtain ⟨op, rfl⟩ := exists_headerWord_of_toNat (Nat.pos_of_ne_zero assigned) (Nat.not_le.1 most) reserved
    rw [decode_headerWord]
    cases op with
    | reset =>
      obtain rfl := List.eq_nil_of_length_eq_zero (noPayload (.inl rfl))
      exact ⟨_, rfl⟩
    | load => exact ⟨_, rfl⟩
    | process =>
      obtain ⟨x, rfl⟩ := List.length_eq_one_iff.1 (onePayload (.inl rfl))
      exact ⟨_, rfl⟩
    | tap =>
      obtain ⟨w, rfl⟩ := List.length_eq_one_iff.1 (onePayload (.inr rfl))
      exact ⟨_, rfl⟩
    | window =>
      obtain rfl := List.eq_nil_of_length_eq_zero (noPayload (.inr rfl))
      exact ⟨_, rfl⟩

/-- The illegal packets of R68 are those the decoder rejects. -/
theorem illegalPacket_iff {p : Packet} : illegalPacket p ↔ ∃ why, decode p = .error why := by
  constructor
  · intro illegal
    cases decoded : decode p with
    | error why => exact ⟨why, rfl⟩
    | ok i => exact absurd illegal (not_illegalPacket_of_decode decoded)
  · rintro ⟨why, rejected⟩
    by_contra legal
    obtain ⟨i, decoded⟩ := exists_decode_of_not_illegalPacket legal
    cases rejected.symm.trans decoded

theorem step_of_illegalPacket {s : State} {p : Packet} {rest : List Packet} (illegal : illegalPacket p)
    (waiting : s.commands = p :: rest) :
    step s = .next { s with commands := rest, responses := s.responses ++ [[0x04000000#32]] } := by
  obtain ⟨why, rejected⟩ := illegalPacket_iff.1 illegal
  rw [step_of_error waiting rejected, answer, encodeResponse_illegalCommand]

/-- Settles O3: a packet with none of the faults of R68 has the header number of an opcode and a payload that fits, so it decodes. -/
theorem illegalPacketsAreAnsweredAndChangeNothing : Obligations.IllegalPacketsAreAnsweredAndChangeNothing :=
  fun _ => ⟨illegalPacket_iff, fun _ _ => step_of_illegalPacket⟩

/-! ## The order of the tests (R146) -/

/-- Settles O13: each clause is the law of its command in the case where the test fails, with the error's packet written out. -/
theorem errorPriorityIsFixed : Obligations.ErrorPriorityIsFixed := by
  refine ⟨fun s p rest waiting illegal => step_of_illegalPacket illegal waiting, fun s i unconfigured => ?_,
    fun s x unconfigured => ?_, fun s i configured outOfRange => ?_, fun s c mismatch => ?_⟩
  · rw [← encodeResponse_notConfigured]
    exact execTap_unconfigured unconfigured
  · rw [← encodeResponse_notConfigured]
    exact execProcess_unconfigured unconfigured
  · rw [← encodeResponse_indexOutOfRange]
    exact execTap_out_of_range configured outOfRange
  · rw [← encodeResponse_coefficientLengthMismatch]
    exact execLoad_mismatch mismatch

end Sys2Proof.Machine
end

section
/-!
PROOFS. Statements across the spec: `Streaming` and `CoefficientsLoaded` cannot be told apart (`43_stream_controller.md` R134), the
data of a response (`30_encoding.md` R65), `NotConfigured` (`60_exceptions.md` R143), the narrowing (`42_filter_core.md` R104) and the
label patterns (`10_state.md` R25).
-/

namespace Sys2Proof.Machine

/-! ## Two configured labels (R134)

No meaning tells one configured label from the other, so a state and its twin with the other label take the same steps. -/

/-- Two states related as in R134 answer a command alike and stay so related. -/
theorem State.SameUpToLabel.exec_alike {s t s' : State} {i : Instr} (alike : s.SameUpToLabel t)
    (answers : exec i s = .next s') :
    ∃ t' q, exec i t = .next t' ∧ s'.SameUpToLabel t' ∧ s'.responses = s.responses ++ [q] ∧
      t'.responses = t.responses ++ [q] := by
  obtain ⟨taps, coef, sr, label, commands, responses⟩ := t
  obtain ⟨rfl, rfl, rfl, left, right⟩ := alike
  obtain ⟨rfl, rfl⟩ | ⟨_, rfl, length, rfl⟩ | ⟨_, rfl, length, rfl⟩ | ⟨_, _, unconfigured, _⟩ |
    ⟨_, _, rfl, _, holds, rfl⟩ | ⟨_, _, unconfigured, _⟩ | ⟨_, rfl, _, outOfRange, rfl⟩ |
    ⟨_, _, _, rfl, _, inRange, holds, element, rfl⟩ | ⟨rfl, rfl⟩ := exec_next_cases answers
  · exact ⟨_, _, execReset_eq _, ⟨rfl, rfl, rfl, left, right⟩, rfl, rfl⟩
  · exact ⟨_, _, execLoad_ok length, ⟨rfl, rfl, rfl, nofun, nofun⟩, rfl, rfl⟩
  · exact ⟨_, _, execLoad_mismatch length, ⟨rfl, rfl, rfl, left, right⟩, rfl, rfl⟩
  · exact absurd unconfigured left
  · exact ⟨_, _, execProcess_configured right holds, ⟨rfl, rfl, rfl, nofun, nofun⟩, rfl, rfl⟩
  · exact absurd unconfigured left
  · exact ⟨_, _, execTap_out_of_range right outOfRange, ⟨rfl, rfl, rfl, left, right⟩, rfl, rfl⟩
  · exact ⟨_, _, execTap_in_range right inRange holds element, ⟨rfl, rfl, rfl, left, right⟩, rfl, rfl⟩
  · exact ⟨_, _, execWindow_eq _, ⟨rfl, rfl, rfl, left, right⟩, rfl, rfl⟩

theorem State.SameUpToLabel.step_issueNext_alike {s t s' : State} {p : Packet} (alike : s.SameUpToLabel t)
    (taken : step (issueNext p s) = .next s') :
    ∃ t' q, step (issueNext p t) = .next t' ∧ s'.SameUpToLabel t' ∧ s'.responses = s.responses ++ [q] ∧
      t'.responses = t.responses ++ [q] := by
  cases decoded : decode p with
  | error why =>
    rw [step_issueNext_error decoded] at taken
    cases taken
    exact ⟨_, _, step_issueNext_error decoded, { alike with }, rfl, rfl⟩
  | ok i =>
    rw [step_issueNext_ok decoded] at taken ⊢
    exact alike.exec_alike taken

theorem State.SameUpToLabel.runPackets_alike {ps : List Packet} {s t s' : State} (alike : s.SameUpToLabel t)
    (run : runPackets ps s = some s') :
    ∃ t' answers, runPackets ps t = some t' ∧ s'.SameUpToLabel t' ∧ s'.responses = s.responses ++ answers ∧
      t'.responses = t.responses ++ answers := by
  induction ps generalizing s t with
  | nil =>
    cases run
    exact ⟨t, [], rfl, alike, by simp, by simp⟩
  | cons p ps ih =>
    obtain ⟨u, taken, later⟩ := runPackets_cons_eq_some_iff.1 run
    obtain ⟨v, q, taken', alike', first, first'⟩ := alike.step_issueNext_alike taken
    obtain ⟨t', answers, run', related, others, others'⟩ := ih alike' later
    exact ⟨t', q :: answers, (runPackets_cons ps taken').trans run', related, by simp [others, first],
      by simp [others', first']⟩

/-- Settles O50: within the invariant the run from `s` ends, and the run from `t` takes the same steps. -/
theorem streamingAndLoadedAreIndistinguishable : Obligations.StreamingAndLoadedAreIndistinguishable := by
  intro s t ps h _ alike
  obtain ⟨s', _, run, _⟩ := runPackets_answers ps h
  obtain ⟨t', answers, run', related, responses, responses'⟩ := alike.runPackets_alike run
  exact ⟨s', t', answers, run, run', related, responses, responses'⟩

/-! ## The data words of a response (R65) -/

/-- Settles O14: the responses recorded determine the one given, and its data are those of the command's case. -/
theorem dataWordCountFollowsCommandAndStatus : Obligations.DataWordCountFollowsCommandAndStatus := by
  intro i s t r h answers answered
  obtain ⟨rfl, rfl⟩ | ⟨_, rfl, _, rfl⟩ | ⟨_, _, _, rfl⟩ | ⟨_, _, _, rfl⟩ | ⟨_, _, rfl, _, _, rfl⟩ | ⟨_, _, _, rfl⟩ |
    ⟨_, _, _, _, rfl⟩ | ⟨_, _, _, rfl, _, _, _, _, rfl⟩ | ⟨rfl, rfl⟩ := exec_next_cases answers <;>
    obtain rfl := eq_of_answer_responses (s := s) rfl answered
  case inr.inr.inl | inr.inr.inr.inl | inr.inr.inr.inr.inr.inl | inr.inr.inr.inr.inr.inr.inl =>
    exact ⟨fun _ => rfl, nofun⟩
  case inr.inr.inr.inr.inr.inr.inr.inr => exact ⟨fun failed => absurd rfl failed, fun _ => h.sr_length⟩
  all_goals exact ⟨fun failed => absurd rfl failed, fun _ => rfl⟩

/-! ## `NotConfigured` (R143) -/

/-- A configured engine answers no command with `NotConfigured`. -/
theorem exec_configured_answer {i : Instr} {s t : State} (configured : s.ctrl ≠ .uninitialized)
    (answers : exec i s = .next t) :
    ∃ r, t.responses = s.responses ++ [encodeResponse r] ∧ r.status ≠ .error .notConfigured := by
  obtain ⟨_, rfl⟩ | ⟨_, _, _, rfl⟩ | ⟨_, _, _, rfl⟩ | ⟨_, _, unconfigured, _⟩ | ⟨_, _, _, _, _, rfl⟩ |
    ⟨_, _, unconfigured, _⟩ | ⟨_, _, _, _, rfl⟩ | ⟨_, _, _, _, _, _, _, _, rfl⟩ | ⟨_, rfl⟩ := exec_next_cases answers
  case inr.inr.inr.inl | inr.inr.inr.inr.inr.inl => exact absurd unconfigured configured
  all_goals exact ⟨_, rfl, nofun⟩

theorem step_issueNext_configured_answer {p : Packet} {s t : State} (configured : s.ctrl ≠ .uninitialized)
    (taken : step (issueNext p s) = .next t) :
    ∃ r, t.responses = s.responses ++ [encodeResponse r] ∧ r.status ≠ .error .notConfigured := by
  cases decoded : decode p with
  | error why =>
    rw [step_issueNext_error decoded] at taken
    cases taken
    exact ⟨_, rfl, nofun⟩
  | ok i =>
    rw [step_issueNext_ok decoded] at taken
    exact exec_configured_answer configured taken

/-- The packet of any other response is not that of `NotConfigured`. -/
theorem encodeResponse_ne_notConfigured {r : Response} (other : r.status ≠ .error .notConfigured) :
    [0x02000000#32] ≠ encodeResponse r := by
  intro same
  rw [← encodeResponse_notConfigured] at same
  exact other (congrArg Response.status (encodeResponse_injective same)).symm

theorem runPackets_configured_answers {ps : List Packet} {s t : State} (configured : s.ctrl ≠ .uninitialized)
    (run : runPackets ps s = some t) :
    ∃ answers, t.responses = s.responses ++ answers ∧ [0x02000000#32] ∉ answers := by
  induction ps generalizing s with
  | nil =>
    cases run
    exact ⟨[], by simp, by simp⟩
  | cons p ps ih =>
    obtain ⟨u, taken, later⟩ := runPackets_cons_eq_some_iff.1 run
    obtain ⟨r, first, other⟩ := step_issueNext_configured_answer configured taken
    obtain ⟨answers, others, absent⟩ := ih (step_keeps_configured (s := issueNext p s) configured taken) later
    exact ⟨encodeResponse r :: answers, by simp [others, first],
      List.not_mem_cons_of_ne_of_not_mem (encodeResponse_ne_notConfigured other) absent⟩

/-- Settles O26: no step unconfigures an engine, and only an unconfigured one answers `NotConfigured`. -/
theorem notConfiguredNeverReturns : Obligations.NotConfiguredNeverReturns := by
  intro s ps h configured
  obtain ⟨t, _, run, _⟩ := runPackets_answers ps h
  obtain ⟨answers, responses, absent⟩ := runPackets_configured_answers configured run
  exact ⟨t, answers, run, runPackets_keeps_configured configured run, responses, absent⟩

/-! ## The narrowing (R104) -/

/-- Settles O37: the closed form lies in the range and differs from the accumulator by a multiple of `2^32`, and two such numbers
in the range are equal. -/
theorem narrowingIsTheUniqueWrappedValue : Obligations.NarrowingIsTheUniqueWrappedValue := by
  intro acc
  have closed : sext32 (narrow acc) = (acc + 2147483648) % 4294967296 - 2147483648 :=
    (sext32_narrow acc).trans (narrow32_eq_emod acc)
  refine ⟨closed, sext32_lower _, sext32_upper _, ?_, fun out lower upper congruent => ?_, ?_⟩
  · omega
  · omega
  · rw [narrow_eq_word32, toNat_word32]

/-! ## The label (R25) -/

theorem Ctrl.bits_ne_three (label : Ctrl) : label.bits ≠ 3#2 := by
  cases label <;> decide

theorem Ctrl.bits_injective {l l' : Ctrl} : l.bits = l'.bits → l = l' := by
  cases l <;> cases l' <;> decide

/-- Settles O59: the three patterns are read off the definition, and they are distinct. -/
theorem labelPatternsAreDistinct : Obligations.LabelPatternsAreDistinct :=
  ⟨rfl, rfl, rfl, Ctrl.bits_ne_three, fun _ _ => Ctrl.bits_injective⟩

end Sys2Proof.Machine
end

section
/-!
PROOFS. The text of a command (`30_encoding.md` R71, assumption 20): the digits written for a number are read as that number, a list
of samples is cut at its commas into the samples, and a line is cut into its mnemonic and its operands.
-/

namespace Sys2Proof.Machine

/-! ## Decimal numbers -/

/-- The ten characters a number is written with. -/
def digitChars : List Char := ['0', '1', '2', '3', '4', '5', '6', '7', '8', '9']

theorem digitChar_mem {d : Nat} (digit : d < 10) : digitChar d ∈ digitChars := by
  revert d
  decide

theorem decimalDigit_digitChar {d : Nat} (digit : d < 10) : decimalDigit (digitChar d) = some d := by
  revert d
  decide

theorem decimalChars_subset (fuel n : Nat) : decimalChars fuel n ⊆ digitChars := by
  induction fuel generalizing n with
  | zero => exact List.nil_subset _
  | succ fuel ih =>
    rw [decimalChars]
    split
    · next small => simpa using digitChar_mem small
    · exact List.append_subset.2 ⟨ih _, by simpa using digitChar_mem (Nat.mod_lt n (by norm_num))⟩

theorem decimalChars_succ_ne_nil (fuel n : Nat) : decimalChars (fuel + 1) n ≠ [] := by
  rw [decimalChars]
  split <;> simp

theorem readDigits_append (base : Nat) (digit : Char → Option Nat) (acc : Nat) (xs ys : List Char) :
    readDigits base digit acc (xs ++ ys) = (readDigits base digit acc xs).bind fun a => readDigits base digit a ys := by
  induction xs generalizing acc with
  | nil => rfl
  | cons c xs ih =>
    rw [List.cons_append, readDigits, readDigits]
    cases digit c with
    | none => rfl
    | some d => exact ih _

theorem readDigits_digitChar (acc : Nat) {d : Nat} (digit : d < 10) :
    readDigits 10 decimalDigit acc [digitChar d] = some (acc * 10 + d) := by
  simp [readDigits, decimalDigit_digitChar digit]

/-- Enough digits of a number read as the number: all but the last read as `n / 10`, the last as `n % 10`. -/
theorem readDigits_decimalChars {fuel n : Nat} (enough : n < 10 ^ fuel) :
    readDigits 10 decimalDigit 0 (decimalChars fuel n) = some n := by
  induction fuel generalizing n with
  | zero =>
    obtain rfl : n = 0 := by simpa using enough
    rfl
  | succ fuel ih =>
    rw [decimalChars]
    split
    · next small => simpa using readDigits_digitChar 0 small
    · rw [readDigits_append, ih (Nat.div_lt_of_lt_mul (by rwa [pow_succ'] at enough)), Option.bind_some,
        readDigits_digitChar _ (Nat.mod_lt n (by norm_num)), Nat.div_add_mod']

theorem natText_subset (n : Nat) : natText n ⊆ digitChars := decimalChars_subset 10 n

theorem natText_ne_nil (n : Nat) : natText n ≠ [] := decimalChars_succ_ne_nil 9 n

theorem readNumber_natText {n : Nat} (tenDigits : n < 10000000000) : readNumber 10 decimalDigit (natText n) = some n := by
  have digits := readDigits_decimalChars (fuel := 10) tenDigits
  cases text : natText n with
  | nil => exact absurd text (natText_ne_nil n)
  | cons c rest => rwa [← natText, text] at digits

/-! ## Operands -/

/-- Digits alone are a decimal operand: they have neither the `x` of a word nor a sign. -/
theorem readLiteral_of_digits {t : List Char} {n : Nat} (digits : t ⊆ digitChars)
    (value : readNumber 10 decimalDigit t = some n) : readLiteral t = some (.decimal (n : Int)) := by
  unfold readLiteral
  split
  · have : 'x' ∈ digitChars := digits (by simp)
    exact absurd this (by decide)
  · have : '-' ∈ digitChars := digits (by simp)
    exact absurd this (by decide)
  · rw [value]
    rfl

theorem readLiteral_natText {n : Nat} (tenDigits : n < 10000000000) :
    readLiteral (natText n) = some (.decimal (n : Int)) :=
  readLiteral_of_digits (natText_subset n) (readNumber_natText tenDigits)

theorem readLiteral_sampleText (w : Word) : readLiteral (sampleText w) = some (.decimal (sext32 w)) := by
  have lower := sext32_lower w
  have upper := sext32_upper w
  unfold sampleText
  split
  · next negative =>
    have value : -((-sext32 w).toNat : Int) = sext32 w := by omega
    rw [readLiteral, readNumber_natText (by omega)]
    exact congrArg (fun v => some (Literal.decimal v)) value
  · rw [readLiteral_natText (by omega), Int.toNat_of_nonneg (by omega)]

theorem sampleText_subset (w : Word) : sampleText w ⊆ '-' :: digitChars := by
  unfold sampleText
  split
  · exact List.cons_subset_cons _ (natText_subset _)
  · exact List.subset_cons_of_subset _ (natText_subset _)

theorem sampleText_ne_nil (w : Word) : sampleText w ≠ [] := by
  unfold sampleText
  split
  · simp
  · exact natText_ne_nil _

/-! ## White space -/

/-- A text that neither starts nor ends with white space. -/
structure Trimmed (t : List Char) : Prop where
  first : ∀ c ∈ t.head?, isSpace c = false
  last : ∀ c ∈ t.getLast?, isSpace c = false

theorem dropWhile_isSpace {t : List Char} (first : ∀ c ∈ t.head?, isSpace c = false) : t.dropWhile isSpace = t := by
  cases t with
  | nil => rfl
  | cons c t => simp [first c rfl]

theorem Trimmed.trim_eq {t : List Char} (h : Trimmed t) : trim t = t := by
  have last : t.reverse.dropWhile isSpace = t.reverse := dropWhile_isSpace (by simpa using h.last)
  rw [trim, dropWhile_isSpace h.first, last, List.reverse_reverse]

theorem trim_space_cons (t : List Char) : trim (' ' :: t) = trim t := by
  rw [trim, List.dropWhile_cons_of_pos (by decide), ← trim]

theorem trimmed_of_noSpace {t : List Char} (noSpace : ∀ c ∈ t, isSpace c = false) : Trimmed t where
  first c hc := noSpace c (List.mem_of_mem_head? hc)
  last c hc := noSpace c (List.mem_of_mem_getLast? hc)

theorem Trimmed.append {a b : List Char} (middle : List Char) (ha : Trimmed a) (hb : Trimmed b) (first : a ≠ [])
    (last : b ≠ []) : Trimmed (a ++ (middle ++ b)) where
  first := by simpa [List.head?_append_of_ne_nil _ first] using ha.first
  last := by simpa [List.getLast?_append_of_ne_nil _ last, last] using hb.last

theorem isSpace_of_mem_digitChars : ∀ c ∈ digitChars, isSpace c = false := by
  simp [digitChars, isSpace]

theorem trimmed_sampleText (w : Word) : Trimmed (sampleText w) := by
  refine trimmed_of_noSpace fun c hc => ?_
  obtain rfl | digit := List.mem_cons.1 (sampleText_subset w hc)
  · rfl
  · exact isSpace_of_mem_digitChars c digit

/-! ## Lists of samples -/

theorem samplesText_ne_nil (w : Word) (ws : List Word) : samplesText (w :: ws) ≠ [] := by
  cases ws <;> simp [samplesText, sampleText_ne_nil]

theorem trimmed_samplesText (ws : List Word) : Trimmed (samplesText ws) := by
  induction ws with
  | nil => exact trimmed_of_noSpace nofun
  | cons w ws ih =>
    cases ws with
    | nil => exact trimmed_sampleText w
    | cons w' ws => exact (trimmed_sampleText w).append [',', ' '] ih (sampleText_ne_nil w) (samplesText_ne_nil w' ws)

theorem samplesText_subset (ws : List Word) : samplesText ws ⊆ ',' :: ' ' :: '-' :: digitChars := by
  have sample (w : Word) : sampleText w ⊆ ',' :: ' ' :: '-' :: digitChars :=
    List.subset_cons_of_subset _ (List.subset_cons_of_subset _ (sampleText_subset w))
  induction ws with
  | nil => exact List.nil_subset _
  | cons w ws ih =>
    cases ws with
    | nil => exact sample w
    | cons w' ws =>
      rw [samplesText]
      exact List.append_subset.2 ⟨sample w, List.cons_subset.2 ⟨by simp, List.cons_subset.2 ⟨by simp, ih⟩⟩⟩

theorem splitAtCommas_ne_nil (t : List Char) : splitAtCommas t ≠ [] := by
  cases t with
  | nil => simp [splitAtCommas]
  | cons c t =>
    rw [splitAtCommas]
    split
    · simp
    · split <;> simp

theorem splitAtCommas_comma_cons (t : List Char) : splitAtCommas (',' :: t) = [] :: splitAtCommas t := by
  rw [splitAtCommas]
  cases pieces : splitAtCommas t with
  | nil => exact absurd pieces (splitAtCommas_ne_nil t)
  | cons piece pieces => rfl

theorem splitAtCommas_cons_of_ne {c : Char} (other : c ≠ ',') (t : List Char) :
    splitAtCommas (c :: t) = (splitAtCommas t).modifyHead (c :: ·) := by
  rw [splitAtCommas]
  cases pieces : splitAtCommas t with
  | nil => exact absurd pieces (splitAtCommas_ne_nil t)
  | cons piece pieces => simp [other]

/-- A text without a comma goes to the first piece. -/
theorem splitAtCommas_append {t : List Char} (noComma : ',' ∉ t) (later : List Char) :
    splitAtCommas (t ++ later) = (splitAtCommas later).modifyHead (t ++ ·) := by
  induction t with
  | nil => exact (congrFun List.modifyHead_id _).symm
  | cons c t ih =>
    obtain ⟨other, noComma⟩ := not_or.1 (mt List.mem_cons.2 noComma)
    rw [List.cons_append, splitAtCommas_cons_of_ne (Ne.symm other), ih noComma, List.modifyHead_modifyHead]
    rfl

theorem splitAtCommas_of_noComma {t : List Char} (noComma : ',' ∉ t) : splitAtCommas t = [t] := by
  simpa [splitAtCommas] using splitAtCommas_append noComma []

theorem splitAtCommas_append_comma {t : List Char} (noComma : ',' ∉ t) (later : List Char) :
    splitAtCommas (t ++ ',' :: later) = t :: splitAtCommas later := by
  simp [splitAtCommas_append noComma, splitAtCommas_comma_cons]

theorem comma_notMem_sampleText (w : Word) : ',' ∉ sampleText w := fun h =>
  absurd (sampleText_subset w h) (by decide)

/-- One piece between commas, read as `readSamples` reads it. -/
def readPiece (piece : List Char) : Option Word := (readLiteral (trim piece)).bind Literal.asSample

theorem readSamples_eq (t : List Char) :
    readSamples t = if (trim t).isEmpty then some [] else allSome ((splitAtCommas t).map readPiece) := rfl

theorem readPiece_sampleText (w : Word) : readPiece (sampleText w) = some w := by
  rw [readPiece, (trimmed_sampleText w).trim_eq, readLiteral_sampleText, Option.bind_some, asSample_decimal]

/-- A space before the first piece does not change what is read. -/
theorem map_readPiece_space_cons (t : List Char) :
    (splitAtCommas (' ' :: t)).map readPiece = (splitAtCommas t).map readPiece := by
  rw [splitAtCommas_cons_of_ne (by decide)]
  cases splitAtCommas t <;> rfl

theorem allSome_map_readPiece_samplesText (w : Word) (ws : List Word) :
    allSome ((splitAtCommas (samplesText (w :: ws))).map readPiece) = some (w :: ws) := by
  induction ws generalizing w with
  | nil =>
    rw [samplesText, splitAtCommas_of_noComma (comma_notMem_sampleText w), List.map_singleton, readPiece_sampleText]
    rfl
  | cons w' ws ih =>
    rw [samplesText, splitAtCommas_append_comma (comma_notMem_sampleText w), List.map_cons, readPiece_sampleText,
      map_readPiece_space_cons, allSome, ih, Option.map_some]

theorem readSamples_samplesText (ws : List Word) : readSamples (samplesText ws) = some ws := by
  cases ws with
  | nil => rfl
  | cons w ws =>
    rw [readSamples_eq, (trimmed_samplesText _).trim_eq, if_neg (by simp [samplesText_ne_nil]),
      allSome_map_readPiece_samplesText]

/-! ## Lines -/

/-- The text of a mnemonic. -/
structure MnemonicText (m : List Char) : Prop where
  nonempty : m ≠ []
  noSpace : ∀ c ∈ m, isSpace c = false
  noComment : ';' ∉ m

/-- The text of at least one operand. -/
structure OperandText (t : List Char) : Prop where
  nonempty : t ≠ []
  trimmed : Trimmed t
  noComment : ';' ∉ t

theorem withoutComment_eq {t : List Char} (noComment : ';' ∉ t) : withoutComment t = t := by
  rw [withoutComment, List.takeWhile_eq_self_iff]
  intro c hc
  simpa using ne_of_mem_of_not_mem hc noComment

theorem withOperands_eq {m t : List Char} (nonempty : t ≠ []) : withOperands m t = m ++ ' ' :: t := by
  rw [withOperands, if_neg (by simpa using nonempty)]

/-- A mnemonic, a space and operands are read as one line without a comment, cut at that space. -/
theorem line_parts {m t : List Char} (hm : MnemonicText m) (ht : OperandText t) :
    trim (withoutComment (m ++ ' ' :: t)) = m ++ ' ' :: t ∧
      (m ++ ' ' :: t).takeWhile (fun c => !isSpace c) = m ∧
      trim ((m ++ ' ' :: t).dropWhile fun c => !isSpace c) = t := by
  have noSpace : ∀ c ∈ m, (!isSpace c) = true := by simpa using hm.noSpace
  refine ⟨?_, ?_, ?_⟩
  · have trimmed : Trimmed (m ++ ([' '] ++ t)) :=
      (trimmed_of_noSpace hm.noSpace).append [' '] ht.trimmed hm.nonempty ht.nonempty
    rw [withoutComment_eq (by simp [hm.noComment, ht.noComment])]
    exact trimmed.trim_eq
  · rw [List.takeWhile_append_of_pos noSpace]
    exact List.append_nil m
  · rw [List.dropWhile_append_of_pos noSpace]
    exact (trim_space_cons t).trans ht.trimmed.trim_eq

theorem parseChars_load {t : List Char} (ht : OperandText t) :
    parseChars (withOperands "LOAD".toList t) = (readSamples t).map fun cs => .command (.load cs) := by
  obtain ⟨text, word, operands⟩ := line_parts (m := "LOAD".toList) ⟨by decide, by simp [isSpace], by decide⟩ ht
  rw [withOperands_eq ht.nonempty]
  simp only [parseChars, text, word, operands]
  rfl

theorem parseChars_process {t : List Char} (ht : OperandText t) :
    parseChars (withOperands "PROCESS".toList t) =
      ((readLiteral t).bind Literal.asSample).map fun x => .command (.process x) := by
  obtain ⟨text, word, operands⟩ := line_parts (m := "PROCESS".toList) ⟨by decide, by simp [isSpace], by decide⟩ ht
  rw [withOperands_eq ht.nonempty]
  simp only [parseChars, text, word, operands]
  rfl

theorem parseChars_tap {t : List Char} (ht : OperandText t) :
    parseChars (withOperands "TAP".toList t) =
      ((readLiteral t).bind Literal.asIndex).map fun i => .command (.tap i) := by
  obtain ⟨text, word, operands⟩ := line_parts (m := "TAP".toList) ⟨by decide, by simp [isSpace], by decide⟩ ht
  rw [withOperands_eq ht.nonempty]
  simp only [parseChars, text, word, operands]
  rfl

theorem operandText_samplesText (w : Word) (ws : List Word) : OperandText (samplesText (w :: ws)) where
  nonempty := samplesText_ne_nil w ws
  trimmed := trimmed_samplesText _
  noComment h := absurd (samplesText_subset _ h) (by decide)

theorem operandText_natText (n : Nat) : OperandText (natText n) where
  nonempty := natText_ne_nil n
  trimmed := trimmed_of_noSpace fun c hc => isSpace_of_mem_digitChars c (natText_subset n hc)
  noComment h := absurd (natText_subset n h) (by decide)

/-- Settles O7, command by command: the line is cut at the space after the mnemonic, and the operands written are read back. -/
theorem commandTextReadsBack : Obligations.CommandTextReadsBack := by
  intro i wf
  cases i with
  | reset => decide
  | window => decide
  | load c =>
    cases c with
    | nil => decide
    | cons w ws =>
      rw [commandChars, parseChars_load (operandText_samplesText w ws), readSamples_samplesText]
      rfl
  | process x =>
    have text : OperandText (sampleText x) := operandText_samplesText x []
    rw [commandChars, parseChars_process text, readLiteral_sampleText, Option.bind_some, asSample_decimal]
    rfl
  | tap k =>
    have inRange : k < 4294967296 := of_decide_eq_true wf
    rw [commandChars, parseChars_tap (operandText_natText k), readLiteral_natText (by omega), Option.bind_some,
      asIndex_decimal k inRange]
    rfl

end Sys2Proof.Machine
end
